-- ==== Sys2Proof/Word.lean ====
section
/-! DEFINITION. The widths of the engine's data: a byte of the store or of HB, a 16-bit field, the 32-bit command word. -/

namespace Sys2Proof

/-- One byte, the only access width of the store (20_memory R52). -/
abbrev Byte := BitVec 8

/-- A 16-bit field: head, tail, pageSize, or a command's ARG (00_scope R6). -/
abbrev Half := BitVec 16

/-- A command word (30_encoding R80), and the width of magic (10_state R21). -/
abbrev Word := BitVec 32

end Sys2Proof
end

