-- ==== Sys2Proof/Syntax.lean ====
section
/-! DEFINITION. The six commands of 30_encoding R83, one constructor per row of spec/opcode_table.json. -/

namespace Sys2Proof

/-- A command. The one operand is ARG = word[31:16] (R82). -/
inductive Instr where
  /-- `FORMAT n`: ARG is the page size (41_format R140). -/
  | format (pageSize : Half)
  /-- `WRITE n`: ARG is LEN, the record's length in bytes (42_write R150). -/
  | write (len : Half)
  /-- `READ` (43_read R170). -/
  | read
  /-- `IS_FULL` (44_queries R191). -/
  | isFull
  /-- `CONTAINS_DATA` (44_queries R193). -/
  | containsData
  /-- `IS_INITIALIZED` (44_queries R196). -/
  | isInitialized
  deriving DecidableEq, Repr

end Sys2Proof
end

