-- ==== Sys2Proof/WellFormed.lean ====
section
/-! DEFINITION. Which commands meet the operand ranges of 30_encoding R83 and R87. -/

namespace Sys2Proof

/-- The operand ranges of R83: a page size is 1..65535 (the source's precondition `pageSize > 0`); LEN is any 16-bit
value. `FORMAT 0` is a legal word all the same, and the engine answers it with ERR_ARG (41_format R142): no statement
about execution or encoding assumes well-formedness (log 24). -/
def Instr.wellFormed : Instr → Bool
  | .format pageSize => decide (pageSize ≠ 0)
  | .write _ => true
  | .read => true
  | .isFull => true
  | .containsData => true
  | .isInitialized => true

end Sys2Proof
end

