-- ==== Sys2Proof/Decode.lean ====
section
/-! DEFINITION. The command word of 30_encoding R80 to R85: its fields, the decoder, and the encoder. -/

namespace Sys2Proof

/-- OP, word[3:0] (R81). -/
def opField (w : Word) : BitVec 4 := w.extractLsb' 0 4

/-- RSV, word[15:4] (R81). -/
def rsvField (w : Word) : BitVec 12 := w.extractLsb' 4 12

/-- ARG, word[31:16] (R81). -/
def argField (w : Word) : Half := w.extractLsb' 16 16

/-- Why a word is illegal (R84). Every reason is answered alike, with ERR_OPCODE. -/
inductive Reject where
  /-- RSV is not 0. -/
  | reservedBits (rsv : BitVec 12)
  /-- OP is 0x0 or 0x7..0xF. -/
  | reservedOpcode (op : BitVec 4)
  /-- ARG is not 0 for a command that takes none. -/
  | argument (op : BitVec 4) (arg : Half)
  deriving DecidableEq, Repr

/-- A command without an operand: legal only when ARG is 0 (R84). -/
def withoutArg (i : Instr) (w : Word) : Except Reject Instr :=
  if argField w = 0 then .ok i else .error (.argument (opField w) (argField w))

/-- The decoder (R84, R85): total on all 2^32 words. A legal word is decoded by OP alone. -/
def decode (w : Word) : Except Reject Instr :=
  if rsvField w ≠ 0 then .error (.reservedBits (rsvField w))
  else if opField w = 1 then .ok (.format (argField w))
  else if opField w = 2 then .ok (.write (argField w))
  else if opField w = 3 then withoutArg .read w
  else if opField w = 4 then withoutArg .isFull w
  else if opField w = 5 then withoutArg .containsData w
  else if opField w = 6 then withoutArg .isInitialized w
  else .error (.reservedOpcode (opField w))

/-- The `legal(w)` of R84, as the spec writes it. -/
def legal (w : Word) : Bool :=
  decide (opField w ∈ [1, 2, 3, 4, 5, 6]) && decide (rsvField w = 0)
    && (decide (opField w ∈ [1, 2]) || decide (argField w = 0))

/-- OP of each command (R83). -/
def Instr.opcode : Instr → BitVec 4
  | .format _ => 1
  | .write _ => 2
  | .read => 3
  | .isFull => 4
  | .containsData => 5
  | .isInitialized => 6

/-- ARG of each command (R82): 0 where the command takes none. -/
def Instr.arg : Instr → Half
  | .format pageSize => pageSize
  | .write len => len
  | .read => 0
  | .isFull => 0
  | .containsData => 0
  | .isInitialized => 0

/-- The command word ARG || RSV || OP of R81, with RSV = 0. -/
def encode (i : Instr) : Word := i.arg ++ (0 : BitVec 12) ++ i.opcode

/-- The mask column of spec/opcode_table.json for a command's row. -/
def Instr.tableMask : Instr → Word
  | .format _ => 0x0000FFFF
  | .write _ => 0x0000FFFF
  | .read => 0xFFFFFFFF
  | .isFull => 0xFFFFFFFF
  | .containsData => 0xFFFFFFFF
  | .isInitialized => 0xFFFFFFFF

/-- The match column of spec/opcode_table.json for a command's row. -/
def Instr.tableMatch : Instr → Word
  | .format _ => 0x00000001
  | .write _ => 0x00000002
  | .read => 0x00000003
  | .isFull => 0x00000004
  | .containsData => 0x00000005
  | .isInitialized => 0x00000006

/-- The 32-bit word whose low `nbits` bits are those of `w` and whose other bits are 0. -/
def tableWord (nbits w : Nat) : Word := BitVec.ofNat 32 (w % 2 ^ nbits)

/-- The command the decoder reads from the word of `tableWord`; `none` where it refuses the word. -/
def decodeTableWord (nbits w : Nat) : Option Instr :=
  match decode (tableWord nbits w) with
  | .ok i => some i
  | .error _ => none

end Sys2Proof
end

