-- ==== Sys2Proof/Config.lean ====
section
/-! DEFINITION. The parameters of 00_scope R6 that fix one machine: the store's size, and the open value MAGIC. -/

namespace Sys2Proof

/-- C, the byte store's capacity: 32768 bytes for this hardware (R6). -/
def Config.capacity : Nat := 32768

/-- META_SIZE, the size of the metadata region (R6). -/
def Config.metaSize : Nat := 32

/-- MS, metadataStart = C - META_SIZE = 0x7FE0 (R6). -/
def Config.metaStart : Nat := Config.capacity - Config.metaSize

/-- MAGIC, the 32-bit sentinel. The spec leaves it OPEN (R6, 92_eei_decisions D3), so it has no body here and no
statement can rest on its value (log 3). -/
opaque Config.magic : Word

end Sys2Proof
end

