-- ==== Sys2Proof/Machine/State.lean ====
section
/-! DEFINITION. The state of the machine (10_state), as plain data: the byte store, the host page buffer, the engine's
working registers and sequencer, its inputs and its fault record, and the machine right after reset. -/

namespace Sys2Proof.Machine

/-- A byte memory (the store or HB): address and byte pairs, addresses strictly rising, none equal to what an unlisted
address reads as (`Memory.wf`). -/
abbrev Memory := List Host.Cell

/-- STATUS of a response (30_encoding R90, 60_exceptions R211). The value 3 is reserved and has no constructor. -/
inductive Status where
  | ok
  | errOpcode
  | errArg
  deriving DecidableEq, Repr

/-- The observable events of 00_scope R12, each with the byte it moved. -/
inductive Event where
  | storeRead (addr : Nat) (value : Byte)
  | storeWrite (addr : Nat) (value : Byte)
  | hbRead (idx : Nat) (value : Byte)
  | hbWrite (idx : Nat) (value : Byte)
  | respond (word : Byte)
  deriving DecidableEq, Repr

/-- SEQ (10_state R35). `k` counts the events issued so far in the transaction (log 7). -/
inductive Seq where
  | idle
  | busy (k : Nat)
  | resp
  deriving DecidableEq, Repr

/-- The step of the sequencer inside a transaction: which event is due next ("`step <- S`", 00_scope R11; log 6).
A number counts the byte within the sequence of 40_engine R104, R106 or 41_format R141. -/
inductive Point where
  /-- no transaction event is due -/
  | rest
  /-- FORMAT: one of its 11 writes is due -/
  | format (n : Fin 11)
  /-- the metadata fetch: one of its 7 reads is due -/
  | fetch (n : Fin 7)
  /-- IS_INITIALIZED: one of the 4 reads of magic is due -/
  | magic (n : Fin 4)
  /-- WrapHead: one of its 3 writes is due; `room` says whether a page follows -/
  | wrapHead (n : Fin 3) (room : Bool)
  /-- PutPage: byte I is due, from HB or, for I >= LEN, as PAD -/
  | put
  /-- PutPage: byte I has been read from HB and its store write is due -/
  | putStore (value : Byte)
  /-- CommitHead: one of its 2 writes is due -/
  | commitHead (n : Fin 2)
  /-- WrapTail: one of its 3 writes is due; `data` says whether a page follows -/
  | wrapTail (n : Fin 3) (data : Bool)
  /-- GetPage: the store read of byte I is due -/
  | get
  /-- GetPage: byte I has been read from the store and its HB write is due -/
  | getHb (value : Byte)
  /-- CommitTail: one of its 2 writes is due -/
  | commitTail (n : Fin 2)
  /-- the response is due -/
  | respond (status : Status) (result : Bool)
  deriving DecidableEq, Repr

/-- The state of the machine. The registers have the spec's own names (10_state R30). -/
structure State where
  /-- the non-volatile byte store, addresses 0..C-1 (20_memory R53) -/
  store : Memory
  /-- the host page buffer HB, indices 0..2^16-1 (20_memory R60) -/
  hb : Memory
  /-- copy of head -/
  H : Half
  /-- copy of tail -/
  T : Half
  /-- copy of pageSize, or FORMAT's ARG -/
  P : Half
  /-- copy of flipMarker -/
  F : Byte
  /-- magic as IS_INITIALIZED read it -/
  M : Word
  /-- the latched opcode -/
  OP : BitVec 4
  /-- the latched RSV = word[15:4], kept for decoding (40_engine R101) -/
  RSV : BitVec 12
  /-- the latched argument -/
  ARG : Half
  /-- the byte index of a data transfer -/
  I : Half
  /-- the result bit of the command -/
  RES : Bool
  /-- the sequencer SEQ -/
  seq : Seq
  /-- the sequencer's step inside a transaction -/
  point : Point
  /-- the response word on the response port -/
  rspWord : Byte
  /-- the fault record: the address of a StoreRange fault (60_exceptions R215) -/
  faultRec : Option Nat
  /-- input: the command word the host presents, if it presents one (cmd_valid, cmd_word) -/
  cmd : Option Word
  /-- input: the host is ready to take a response (rsp_ready) -/
  rspReady : Bool
  /-- input: reset or power loss is asserted (rst) -/
  rst : Bool
  /-- the model's own: a step is one event (true) or one whole transaction (false) (log 5) -/
  byEvent : Bool
  /-- the model's own: the events of the current or last transaction, newest first (log 12) -/
  log : List Event
  /-- the commands of this run whose response has been taken, each with that response, oldest first: the sequence of
  responses of 70_reset R262, with the words it answers (log 27) -/
  answered : List (Word × Byte)
  deriving DecidableEq, Repr

/-- Why the machine stops. -/
inductive Fault where
  /-- StoreRange (60_exceptions R215): a data transfer of WRITE or READ would access `addr`, at or above C. The access
  is not performed and `left` is the state it leaves, with the fault recorded. Also answered by every later step of that
  state, until a reset. Safe: the spec gives hardware no behaviour there (log 10). -/
  | storeRange (addr : Nat) (left : State)
  deriving DecidableEq, Repr

/-- Why the machine has no move. -/
inductive Refusal where
  /-- An instruction without a meaning. Raised by no arm of this model: all six commands have their meaning. Safe. -/
  | notModelled (mnemonic : String)
  deriving DecidableEq, Repr

/-- What an instruction or a step answers. -/
abbrev Result := Host.Outcome State Fault Refusal

/-- The machine right after its first reset (70_reset R240, 10_state R46): SEQ idle, response word 0x00, RES 0, no
fault, no command of this run answered. Every register the spec gives no value holds 0 (log 4), the store and HB list
nothing (logs 1 and 2), and no input is asserted (log 8). The engine runs event by event, so that from here on a cut can
fall between any two events (70_reset R242, log 5). -/
def State.reset : State where
  store := []
  hb := []
  H := 0
  T := 0
  P := 0
  F := 0
  M := 0
  OP := 0
  RSV := 0
  ARG := 0
  I := 0
  RES := false
  seq := .idle
  point := .rest
  rspWord := 0
  faultRec := none
  cmd := none
  rspReady := false
  rst := false
  byEvent := true
  log := []
  answered := []

end Sys2Proof.Machine
end

