-- ==== Sys2Proof/Machine/Memory.lean ====
section
/-! DEFINITION. The byte memories (20_memory R50 to R52): read and write of one byte, and the canonical form. -/

namespace Sys2Proof.Machine

/-- What an address nothing has written reads as: 0x00 in the store (log 1) and in HB (log 2). -/
def Memory.unwritten : Byte := 0

/-- A read returns the last byte written to the address, and changes nothing (R51). -/
def Memory.read : Memory → Nat → Byte
  | [], _ => Memory.unwritten
  | (k, v) :: rest, a => if k = a then v else Memory.read rest a

/-- Put a listed byte at its place in the rising order. -/
def Memory.insert : Memory → Nat → Byte → Memory
  | [], a, v => [(a, v)]
  | (k, w) :: rest, a, v =>
    if a < k then (a, v) :: (k, w) :: rest
    else if a = k then (a, v) :: rest
    else (k, w) :: Memory.insert rest a v

/-- A write changes only the addressed byte (R51). Writing what an unlisted address reads as removes the entry. -/
def Memory.write (m : Memory) (a : Nat) (v : Byte) : Memory :=
  if v = Memory.unwritten then m.filter (fun c => decide (c.1 ≠ a)) else m.insert a v

/-- The canonical form: addresses strictly rising, and no entry equal to what an unlisted address reads as. -/
abbrev Memory.wf (m : Memory) : Prop :=
  m.Pairwise (fun c d => c.1 < d.1) ∧ ∀ c ∈ m, c.2 ≠ Memory.unwritten

/-- Every listed address is below `n`: C for the store, 2^16 for HB (20_memory R53). -/
abbrev Memory.below (n : Nat) (m : Memory) : Prop := ∀ c ∈ m, c.1 < n

/-- The number of positions of HB, 2^16 (20_memory R53, R60). -/
def hbSize : Nat := 65536

end Sys2Proof.Machine
end

