-- ==== Sys2Proof/Machine/Layout.lean ====
section
/-! DEFINITION. The metadata region's layout and the fixed bytes of 00_scope R6. -/

namespace Sys2Proof.Machine

/-- OFF_MAGIC (10_state R20). -/
def offMagic : Nat := 0
/-- OFF_HEAD (10_state R20). -/
def offHead : Nat := 4
/-- OFF_TAIL (10_state R20). -/
def offTail : Nat := 6
/-- OFF_PS (10_state R20). -/
def offPageSize : Nat := 8
/-- OFF_FLIP (10_state R20). -/
def offFlip : Nat := 10

/-- The store address MS + off of a metadata field's first byte (20_memory R56). -/
def fieldAddr (off : Nat) : Nat := Config.metaStart + off

/-- FLIP_SET, the byte a write wrap stores in flipMarker (R6, D7). -/
def flipSet : Byte := 0x01

/-- The byte that clears flipMarker (10_state R25). -/
def flipClear : Byte := 0x00

/-- PAD, the byte that pads a short record (R6, D14). -/
def pad : Byte := 0x00

end Sys2Proof.Machine
end

