-- ==== Sys2Proof/Machine/Operands.lean ====
section
/-! DEFINITION. Operands: the little-endian codec (20_memory R55), the pointer arithmetic engine's sums (40_engine
R110), the data transfer address and the record's bytes (20_memory R61 to R63). -/

namespace Sys2Proof.Machine

/-- encodeU16 (R55): the least significant byte first. -/
def encodeU16 (v : Half) : List Byte := [v.extractLsb' 0 8, v.extractLsb' 8 8]

/-- encodeU32 (R55). -/
def encodeU32 (v : Word) : List Byte :=
  [v.extractLsb' 0 8, v.extractLsb' 8 8, v.extractLsb' 16 8, v.extractLsb' 24 8]

/-- decodeU16 (R55): b1 || b0. -/
def decodeU16 (b0 b1 : Byte) : Half := b1 ++ b0

/-- decodeU32 (R55): b3 || b2 || b1 || b0. -/
def decodeU32 (b0 b1 b2 b3 : Byte) : Word := b3 ++ b2 ++ b1 ++ b0

/-- A 17-bit sum of two zero-extended 16-bit registers (40_engine R110). -/
def paeSum (a b : Half) : BitVec 17 := a.setWidth 17 + b.setWidth 17

/-- A 17-bit sum as it is stored, modulo 2^16 (40_engine R111). -/
def storedPointer (v : BitVec 17) : Half := v.setWidth 16

/-- The effective address base + i of a data transfer, computed exactly (20_memory R61). -/
def pageAddr (base : Half) (i : Nat) : Nat := base.toNat + i

/-- Byte i of the record a WRITE stores: HB's byte, or PAD from LEN on (20_memory R61 to R63). -/
def recordByte (hb : Memory) (len : Half) (i : Nat) : Byte :=
  if i < len.toNat then hb.read i else pad

/-- The effect of a received byte on a 16-bit register loaded low byte first: after two bytes it holds
`decodeU16 b0 b1` (log 13). -/
def shiftIn16 (v : Half) (b : Byte) : Half := b ++ v.extractLsb' 8 8

/-- Likewise for the 32-bit register M: after four bytes it holds `decodeU32 b0 b1 b2 b3` (log 13). -/
def shiftIn32 (v : Word) (b : Byte) : Word := b ++ v.extractLsb' 8 24

end Sys2Proof.Machine
end

