-- ==== Sys2Proof/Machine/Flags.lean ====
section
/-! DEFINITION. The full/empty state logic (40_engine R113 to R116) and the response word (30_encoding R90). -/

namespace Sys2Proof.Machine

/-- The leaves of WriteCase (R113). -/
inductive WriteLeaf where
  | linear
  | wrapRoom
  | wrapFull
  | lappedRoom
  | lappedFull
  deriving DecidableEq, Repr

/-- The leaves of ReadCase (R114). -/
inductive ReadLeaf where
  | linearData
  | linearEmpty
  | wrapData
  | wrapEmpty
  | lappedData
  deriving DecidableEq, Repr

/-- WriteCase(H, T, P, F) of R113. The flip marker is tested as a whole byte (R118); the room test after a wrap is the
strict one (90_conflicts C3). -/
def writeCase (H T P : Half) (F : Byte) : WriteLeaf :=
  if F = 0 then
    if (paeSum H P).toNat > Config.metaStart then
      if (paeSum 0 P).toNat < T.toNat then .wrapRoom else .wrapFull
    else .linear
  else if H.toNat < T.toNat then .lappedRoom else .lappedFull

/-- ReadCase(H, T, P, F) of R114. The lapped, unwrapped leaf makes no comparison with H. -/
def readCase (H T P : Half) (F : Byte) : ReadLeaf :=
  if F = 0 then
    if T.toNat < H.toNat then .linearData else .linearEmpty
  else if (paeSum T P).toNat > Config.metaStart then
    if 0 < H.toNat then .wrapData else .wrapEmpty
  else .lappedData

/-- Whether a WRITE that takes this leaf succeeds: its RESULT (42_write R153). -/
def WriteLeaf.result : WriteLeaf → Bool
  | .linear => true
  | .wrapRoom => true
  | .wrapFull => false
  | .lappedRoom => true
  | .lappedFull => false

/-- Whether a READ that takes this leaf succeeds: its RESULT (43_read R173). -/
def ReadLeaf.result : ReadLeaf → Bool
  | .linearData => true
  | .linearEmpty => false
  | .wrapData => true
  | .wrapEmpty => false
  | .lappedData => true

/-- isFull(H, T, P, F) of R115: WriteCase is W_WRAP_FULL or W_LAPPED_FULL. -/
def isFull (H T P : Half) (F : Byte) : Bool :=
  decide (writeCase H T P F = .wrapFull ∨ writeCase H T P F = .lappedFull)

/-- containsData(H, T, P, F) of R116: ReadCase is one of the three data leaves. -/
def containsData (H T P : Half) (F : Byte) : Bool :=
  decide (readCase H T P F = .linearData ∨ readCase H T P F = .wrapData ∨ readCase H T P F = .lappedData)

/-- STATUS as its two bits (R90). -/
def statusCode : Status → BitVec 2
  | .ok => 0
  | .errOpcode => 1
  | .errArg => 2

/-- The response word (R90): RESULT at bit 0, STATUS at [2:1], zero in [7:3]. -/
def responseWord (status : Status) (result : Bool) : Byte :=
  (0 : BitVec 5) ++ statusCode status ++ BitVec.ofBool result

end Sys2Proof.Machine
end

