-- ==== Sys2Proof/Machine/Ops.lean ====
section
/-! DEFINITION. The shared operations: single accesses, field accesses (20_memory R56), accept, respond and fetch
(40_engine R101 to R104), commits (R106), page transfers (20_memory R61), the StoreRange fault (60_exceptions R215),
reset (70_reset R240). The engine has no exception entry or return (60_exceptions R220, R221). -/

namespace Sys2Proof.Machine

/-- BUSY(k) becomes BUSY(k+1) after an event (10_state R36). -/
def Seq.bump : Seq → Seq
  | .idle => .idle
  | .busy k => .busy (k + 1)
  | .resp => .resp

/-- An event happens: it is recorded and the sequencer counts it (00_scope R12, 10_state R35). -/
def State.issue (s : State) (e : Event) : State :=
  { s with log := e :: s.log, seq := s.seq.bump }

/-- Write the working register H (10_state R30). -/
def State.setH (s : State) (v : Half) : State := { s with H := v }

/-- Write the working register T. -/
def State.setT (s : State) (v : Half) : State := { s with T := v }

/-- Write the working register P. -/
def State.setP (s : State) (v : Half) : State := { s with P := v }

/-- Write the working register F. -/
def State.setF (s : State) (v : Byte) : State := { s with F := v }

/-- Write the working register M. -/
def State.setM (s : State) (v : Word) : State := { s with M := v }

/-- Write the working register I. -/
def State.setI (s : State) (v : Half) : State := { s with I := v }

/-- Move the sequencer to a step (00_scope R11). -/
def State.setPoint (s : State) (p : Point) : State := { s with point := p }

/-- The next operation runs in the state the first one leaves, unless the first one stopped. -/
def andThen (r : Result) (f : State → Result) : Result :=
  match r with
  | .next s => f s
  | .fault e => .fault e
  | .refused e => .refused e

/-! ### Single accesses -/

/-- One `readByte` of the store. Its value is `s.store.read a`. -/
def State.storeRead (s : State) (a : Nat) : State := s.issue (.storeRead a (s.store.read a))

/-- One `writeByte` of the store. -/
def State.storeWrite (s : State) (a : Nat) (v : Byte) : State :=
  { s with store := s.store.write a v }.issue (.storeWrite a v)

/-- One read of HB (00_scope R11, HbRead). Its value is `s.hb.read i`. -/
def State.hbRead (s : State) (i : Nat) : State := s.issue (.hbRead i (s.hb.read i))

/-- One write of HB (00_scope R11, HbWrite). -/
def State.hbWrite (s : State) (i : Nat) (v : Byte) : State :=
  { s with hb := s.hb.write i v }.issue (.hbWrite i v)

/-- `raise StoreRange(addr)` (60_exceptions R215): the access is not performed, the fault is recorded with addr, and the
transaction issues no further event. -/
def State.raise (s : State) (addr : Nat) : Result :=
  .fault (.storeRange addr { s with faultRec := some addr, point := .rest })

/-! ### Field accesses (R56). Every field address is below C, so no check can fail (41_format R144, log 22). -/

/-- MemRead(a, n): n reads at ascending addresses. -/
def State.loadBytes (s : State) (a : Nat) : Nat → State
  | 0 => s
  | n + 1 => (s.storeRead a).loadBytes (a + 1) n

/-- MemWrite of bytes at ascending addresses. Every byte is written, changed or not (D38). -/
def State.storeBytes (s : State) (a : Nat) : List Byte → State
  | [] => s
  | b :: bs => (s.storeWrite a b).storeBytes (a + 1) bs

/-- The value of an 8-bit metadata field. -/
def field8 (m : Memory) (off : Nat) : Byte := m.read (fieldAddr off)

/-- The value of a 16-bit metadata field, little-endian. -/
def field16 (m : Memory) (off : Nat) : Half :=
  decodeU16 (m.read (fieldAddr off)) (m.read (fieldAddr off + 1))

/-- The value of a 32-bit metadata field, little-endian. -/
def field32 (m : Memory) (off : Nat) : Word :=
  decodeU32 (m.read (fieldAddr off)) (m.read (fieldAddr off + 1)) (m.read (fieldAddr off + 2)) (m.read (fieldAddr off + 3))

/-- The persisted head (10_state R22). -/
def State.head (s : State) : Half := field16 s.store offHead

/-- The persisted tail (10_state R23). -/
def State.tail (s : State) : Half := field16 s.store offTail

/-- The persisted pageSize (10_state R24). -/
def State.pageSize (s : State) : Half := field16 s.store offPageSize

/-- The persisted flipMarker (10_state R25). -/
def State.flip (s : State) : Byte := field8 s.store offFlip

/-- The persisted magic (10_state R21). -/
def State.magic (s : State) : Word := field32 s.store offMagic

/-- StoreField8. -/
def State.storeField8 (s : State) (off : Nat) (v : Byte) : State := s.storeBytes (fieldAddr off) [v]

/-- StoreField16: low byte first. -/
def State.storeField16 (s : State) (off : Nat) (v : Half) : State := s.storeBytes (fieldAddr off) (encodeU16 v)

/-- StoreField32: low byte first. -/
def State.storeField32 (s : State) (off : Nat) (v : Word) : State := s.storeBytes (fieldAddr off) (encodeU32 v)

/-! ### Accept, respond, reset -/

/-- Accept a command word (40_engine R101): latch OP, RSV and ARG, and start BUSY(0). The word leaves the command port,
and the event log starts anew. -/
def State.accept (s : State) (w : Word) : State :=
  { s with OP := opField w, RSV := rsvField w, ARG := argField w, seq := .busy 0, point := .rest, cmd := none, log := [] }

/-- `respond(status, result)` (40_engine R103): the last event of a transaction. The response word stands on the
response port and SEQ is RESP. -/
def State.respond (s : State) (status : Status) (result : Bool) : State :=
  { s.issue (.respond (responseWord status result)) with
    RES := result, rspWord := responseWord status result, seq := .resp, point := .rest }

/-- An illegal word (30_encoding R84): accepted, no store or HB event, ERR_OPCODE. -/
def State.refuseWord (s : State) (w : Word) : State := (s.accept w).respond .errOpcode false

/-- The command word the engine has latched: ARG || RSV || OP (30_encoding R81, 40_engine R101). -/
def State.command (s : State) : Word := s.ARG ++ s.RSV ++ s.OP

/-- The host takes the response (40_engine R103, 10_state R36): SEQ is IDLE, and the response joins the run's sequence of
responses (70_reset R262). -/
def State.takeResponse (s : State) : State :=
  { s with seq := .idle, answered := s.answered ++ [(s.command, s.rspWord)] }

/-- Reset or power loss takes effect (70_reset R240): SEQ is IDLE, the response is 0x00 and not valid, RES is 0, the
fault record is cleared, and a new run starts with no response taken. No store or HB byte changes. The registers the spec leaves unspecified are 0 (log 4), and the
input is taken as one event (log 8). -/
def State.resetEngine (s : State) : State :=
  { s with
    H := 0, T := 0, P := 0, F := 0, M := 0, OP := 0, RSV := 0, ARG := 0, I := 0, RES := false, seq := .idle,
    point := .rest, rspWord := 0, faultRec := none, rst := false, log := [],
    answered := [] }

/-! ### Metadata fetch and commits -/

/-- H <- LoadField16(OFF_HEAD) (40_engine R104). -/
def State.fetchHead (s : State) : State := (s.loadBytes (fieldAddr offHead) 2).setH s.head

/-- T <- LoadField16(OFF_TAIL) (40_engine R104). -/
def State.fetchTail (s : State) : State := (s.loadBytes (fieldAddr offTail) 2).setT s.tail

/-- P <- LoadField16(OFF_PS) (40_engine R104). -/
def State.fetchPageSize (s : State) : State := (s.loadBytes (fieldAddr offPageSize) 2).setP s.pageSize

/-- F <- LoadField8(OFF_FLIP) (40_engine R104). -/
def State.fetchFlip (s : State) : State := (s.loadBytes (fieldAddr offFlip) 1).setF s.flip

/-- FetchMeta (40_engine R104): seven reads, head, tail, pageSize, flipMarker. -/
def State.fetchMeta (s : State) : State := s.fetchHead.fetchTail.fetchPageSize.fetchFlip

/-- The magic fetch of IS_INITIALIZED (44_queries R196): four reads. -/
def State.fetchMagic (s : State) : State := (s.loadBytes (fieldAddr offMagic) 4).setM s.magic

/-- CommitHead(v) (40_engine R106). -/
def State.commitHead (s : State) (v : BitVec 17) : State := s.storeField16 offHead (storedPointer v)

/-- CommitTail(v) (40_engine R106). -/
def State.commitTail (s : State) (v : BitVec 17) : State := s.storeField16 offTail (storedPointer v)

/-- WrapHead() (40_engine R106): the pointer, then the flag. -/
def State.wrapHead (s : State) : State :=
  (((s.storeField16 offHead 0).storeField8 offFlip flipSet).setH 0).setF flipSet

/-- WrapTail() (40_engine R106): the pointer, then the flag. -/
def State.wrapTail (s : State) : State :=
  (((s.storeField16 offTail 0).storeField8 offFlip flipClear).setT 0).setF flipClear

/-! ### Page transfers (20_memory R61) -/

/-- The HB half of PutPage's byte i: HB is read for i < LEN only. -/
def State.takeRecordByte (s : State) (len : Half) (i : Nat) : State :=
  if i < len.toNat then s.hbRead i else s

/-- PutPage from byte i on, with n bytes left. -/
def State.putBytes (base len : Half) : Nat → Nat → State → Result
  | 0, _, s => .next s
  | n + 1, i, s =>
    let t := (s.setI (BitVec.ofNat 16 i)).takeRecordByte len i
    if pageAddr base i < Config.capacity then
      State.putBytes base len n (i + 1) (t.storeWrite (pageAddr base i) (recordByte s.hb len i))
    else t.raise (pageAddr base i)

/-- PutPage(base, P, LEN): P bytes from HB to the store. -/
def State.putPage (s : State) (base len : Half) : Result :=
  State.putBytes base len s.P.toNat 0 (s.setI 0)

/-- GetPage from byte i on, with n bytes left. -/
def State.getBytes (base : Half) : Nat → Nat → State → Result
  | 0, _, s => .next s
  | n + 1, i, s =>
    let t := s.setI (BitVec.ofNat 16 i)
    if pageAddr base i < Config.capacity then
      State.getBytes base n (i + 1)
        ((t.storeRead (pageAddr base i)).hbWrite i (s.store.read (pageAddr base i)))
    else t.raise (pageAddr base i)

/-- GetPage(base, P): P bytes from the store to HB. -/
def State.getPage (s : State) (base : Half) : Result :=
  State.getBytes base s.P.toNat 0 (s.setI 0)

end Sys2Proof.Machine
end

