-- ==== Sys2Proof/Machine/Format.lean ====
section
/-! DEFINITION. FORMAT (41_format R140 to R146). -/

namespace Sys2Proof.Machine

/-- FORMAT(ARG): ARG = 0 is refused with ERR_ARG and no other event (R142); otherwise head, tail, flipMarker, pageSize
and magic are written in that order (R141). -/
def execFormat (pageSize : Half) (s : State) : Result :=
  let s := s.accept (encode (.format pageSize))
  if pageSize = 0 then .next (s.respond .errArg false)
  else
    let s := s.setP pageSize
    let s := s.storeField16 offHead 0
    let s := s.storeField16 offTail 0
    let s := s.storeField8 offFlip flipClear
    let s := s.storeField16 offPageSize s.P
    let s := s.storeField32 offMagic Config.magic
    .next (s.respond .ok true)

end Sys2Proof.Machine
end

