-- ==== Sys2Proof/Machine/Queries.lean ====
section
/-! DEFINITION. The queries IS_FULL, CONTAINS_DATA and IS_INITIALIZED (44_queries R190 to R198): store reads and a
response, nothing else. -/

namespace Sys2Proof.Machine

/-- IS_FULL() (R191). -/
def execIsFull (s : State) : Result :=
  let s := (s.accept (encode .isFull)).fetchMeta
  .next (s.respond .ok (isFull s.H s.T s.P s.F))

/-- CONTAINS_DATA() (R193). -/
def execContainsData (s : State) : Result :=
  let s := (s.accept (encode .containsData)).fetchMeta
  .next (s.respond .ok (containsData s.H s.T s.P s.F))

/-- IS_INITIALIZED() (R196). -/
def execIsInitialized (s : State) : Result :=
  let s := (s.accept (encode .isInitialized)).fetchMagic
  .next (s.respond .ok (decide (s.M = Config.magic)))

end Sys2Proof.Machine
end

