-- ==== Sys2Proof/Machine/Read.lean ====
section
/-! DEFINITION. READ (43_read R170 to R177). -/

namespace Sys2Proof.Machine

/-- READ() (R171): one arm per leaf of ReadCase on the fetched values. The wrap commit stands although the READ fails
(R175, 90_conflicts C1). -/
def execRead (s : State) : Result :=
  let s := (s.accept (encode .read)).fetchMeta
  match readCase s.H s.T s.P s.F with
  | .linearData =>
    andThen (s.getPage s.T) fun t => .next ((t.commitTail (paeSum s.T s.P)).respond .ok true)
  | .linearEmpty => .next (s.respond .ok false)
  | .wrapData =>
    andThen (s.wrapTail.getPage 0) fun t => .next ((t.commitTail (paeSum 0 s.P)).respond .ok true)
  | .wrapEmpty => .next (s.wrapTail.respond .ok false)
  | .lappedData =>
    andThen (s.getPage s.T) fun t => .next ((t.commitTail (paeSum s.T s.P)).respond .ok true)

end Sys2Proof.Machine
end

