-- ==== Sys2Proof/Machine/Write.lean ====
section
/-! DEFINITION. WRITE (42_write R150 to R158). -/

namespace Sys2Proof.Machine

/-- WRITE(LEN) (R151): one arm per leaf of WriteCase on the fetched values. The wrap commit stands although the WRITE
fails (R155); the transfer precedes the pointer advance (40_engine R107). -/
def execWrite (len : Half) (s : State) : Result :=
  let s := (s.accept (encode (.write len))).fetchMeta
  match writeCase s.H s.T s.P s.F with
  | .linear =>
    andThen (s.putPage s.H len) fun t => .next ((t.commitHead (paeSum s.H s.P)).respond .ok true)
  | .wrapRoom =>
    andThen (s.wrapHead.putPage 0 len) fun t => .next ((t.commitHead (paeSum 0 s.P)).respond .ok true)
  | .wrapFull => .next (s.wrapHead.respond .ok false)
  | .lappedRoom =>
    andThen (s.putPage s.H len) fun t => .next ((t.commitHead (paeSum s.H s.P)).respond .ok true)
  | .lappedFull => .next (s.respond .ok false)

end Sys2Proof.Machine
end

