-- ==== Sys2Proof/Machine/Dispatch.lean ====
section
/-! DEFINITION. exec: the whole transaction of an accepted command, one arm per command (40_engine R100). -/

namespace Sys2Proof.Machine

def exec (i : Instr) (s : State) : Host.Outcome State Fault Refusal :=
  match i with
  | .format pageSize => Sys2Proof.Machine.execFormat pageSize s
  | .write len => Sys2Proof.Machine.execWrite len s
  | .read => Sys2Proof.Machine.execRead s
  | .isFull => Sys2Proof.Machine.execIsFull s
  | .containsData => Sys2Proof.Machine.execContainsData s
  | .isInitialized => Sys2Proof.Machine.execIsInitialized s

end Sys2Proof.Machine
end

