-- ==== Sys2Proof/Machine/Sequencer.lean ====
section
/-! DEFINITION. The sequencer, event by event (10_state R35, R36; 00_scope R12): which access the engine asks for at
each step of a transaction, and what it does when the access completes. A whole transaction (`exec`) is these events run
to the end; a cut (70_reset R242) falls between two of them. -/

namespace Sys2Proof.Machine

/-- What the engine asks of its ports (30_encoding R91, R95, R96). -/
inductive Request where
  | storeRead (addr : Nat)
  | storeWrite (addr : Nat) (value : Byte)
  | hbRead (idx : Nat)
  | hbWrite (idx : Nat) (value : Byte)
  | respond (status : Status) (result : Bool)
  deriving DecidableEq, Repr

/-- A field's bytes with the addresses they are stored at, ascending (20_memory R56). -/
def fieldWrites (off : Nat) (bytes : List Byte) : List (Nat × Byte) :=
  bytes.zipIdx.map fun (b, k) => (fieldAddr off + k, b)

/-- FORMAT's 11 writes in order (41_format R141). -/
def formatWrites (pageSize : Half) : List (Nat × Byte) :=
  fieldWrites offHead (encodeU16 0) ++ fieldWrites offTail (encodeU16 0) ++ fieldWrites offFlip [flipClear]
    ++ fieldWrites offPageSize (encodeU16 pageSize) ++ fieldWrites offMagic (encodeU32 Config.magic)

/-- WrapHead's 3 writes in order (40_engine R106). -/
def wrapHeadWrites : List (Nat × Byte) := fieldWrites offHead (encodeU16 0) ++ fieldWrites offFlip [flipSet]

/-- WrapTail's 3 writes in order (40_engine R106). -/
def wrapTailWrites : List (Nat × Byte) := fieldWrites offTail (encodeU16 0) ++ fieldWrites offFlip [flipClear]

/-- CommitHead(base + P)'s 2 writes in order (40_engine R106). -/
def commitHeadWrites (H P : Half) : List (Nat × Byte) :=
  fieldWrites offHead (encodeU16 (storedPointer (paeSum H P)))

/-- CommitTail(base + P)'s 2 writes in order (40_engine R106). -/
def commitTailWrites (T P : Half) : List (Nat × Byte) :=
  fieldWrites offTail (encodeU16 (storedPointer (paeSum T P)))

/-- The n-th write of a sequence, as a request. -/
def nthWrite (writes : List (Nat × Byte)) (n : Nat) : Option Request :=
  (writes[n]?).map fun (a, v) => .storeWrite a v

/-- The event due at the sequencer's step, if one is due. In a page transfer the base is H or T, which a wrap commit has
set to 0 where the rule says base 0 (20_memory R61). -/
def State.request (s : State) : Option Request :=
  match s.point with
  | .rest => none
  | .format n => nthWrite (formatWrites s.P) n
  | .fetch n => some (.storeRead (fieldAddr offHead + n))
  | .magic n => some (.storeRead (fieldAddr offMagic + n))
  | .wrapHead n _ => nthWrite wrapHeadWrites n
  | .put =>
    if s.I.toNat < s.ARG.toNat then some (.hbRead s.I.toNat)
    else some (.storeWrite (pageAddr s.H s.I.toNat) pad)
  | .putStore b => some (.storeWrite (pageAddr s.H s.I.toNat) b)
  | .commitHead n => nthWrite (commitHeadWrites s.H s.P) n
  | .wrapTail n _ => nthWrite wrapTailWrites n
  | .get => some (.storeRead (pageAddr s.T s.I.toNat))
  | .getHb b => some (.hbWrite s.I.toNat b)
  | .commitTail n => nthWrite (commitTailWrites s.T s.P) n
  | .respond status result => some (.respond status result)

/-- Start PutPage: I is 0, and for P = 0 no byte is due (20_memory R61). -/
def State.startPut (s : State) : State :=
  (s.setI 0).setPoint (if s.P = 0 then .commitHead 0 else .put)

/-- Start GetPage. -/
def State.startGet (s : State) : State :=
  (s.setI 0).setPoint (if s.P = 0 then .commitTail 0 else .get)

/-- After PutPage's byte I: the next byte, or the pointer advance. -/
def State.nextPut (s : State) : State :=
  if s.I.toNat + 1 < s.P.toNat then (s.setI (s.I + 1)).setPoint .put else s.setPoint (.commitHead 0)

/-- After GetPage's byte I: the next byte, or the pointer advance. -/
def State.nextGet (s : State) : State :=
  if s.I.toNat + 1 < s.P.toNat then (s.setI (s.I + 1)).setPoint .get else s.setPoint (.commitTail 0)

/-- After WRITE's fetch: the leaf decides (42_write R151). -/
def State.chooseWrite (s : State) : State :=
  match writeCase s.H s.T s.P s.F with
  | .linear => s.startPut
  | .wrapRoom => s.setPoint (.wrapHead 0 true)
  | .wrapFull => s.setPoint (.wrapHead 0 false)
  | .lappedRoom => s.startPut
  | .lappedFull => s.setPoint (.respond .ok false)

/-- After READ's fetch: the leaf decides (43_read R171). -/
def State.chooseRead (s : State) : State :=
  match readCase s.H s.T s.P s.F with
  | .linearData => s.startGet
  | .linearEmpty => s.setPoint (.respond .ok false)
  | .wrapData => s.setPoint (.wrapTail 0 true)
  | .wrapEmpty => s.setPoint (.wrapTail 0 false)
  | .lappedData => s.startGet

/-- After the metadata fetch: the latched opcode says whose transaction this is (40_engine R104). -/
def State.afterFetch (s : State) : State :=
  if s.OP = Instr.opcode (.write 0) then s.chooseWrite
  else if s.OP = Instr.opcode .read then s.chooseRead
  else if s.OP = Instr.opcode .isFull then s.setPoint (.respond .ok (isFull s.H s.T s.P s.F))
  else s.setPoint (.respond .ok (containsData s.H s.T s.P s.F))

/-- A byte of the metadata fetch arrives in its register (40_engine R104, log 13). -/
def State.latch (s : State) (n : Fin 7) (b : Byte) : State :=
  if n.val < 2 then s.setH (shiftIn16 s.H b)
  else if n.val < 4 then s.setT (shiftIn16 s.T b)
  else if n.val < 6 then s.setP (shiftIn16 s.P b)
  else s.setF b

/-- The sequencer moves on when the access it asked for has completed with the read data `b`, which only a read uses. -/
def State.advance (s : State) (b : Byte) : State :=
  match s.point with
  | .rest => s
  | .format n =>
    if h : n.val + 1 < 11 then s.setPoint (.format ⟨n.val + 1, h⟩) else s.setPoint (.respond .ok true)
  | .fetch n =>
    let s := s.latch n b
    if h : n.val + 1 < 7 then s.setPoint (.fetch ⟨n.val + 1, h⟩) else s.afterFetch
  | .magic n =>
    let s := s.setM (shiftIn32 s.M b)
    if h : n.val + 1 < 4 then s.setPoint (.magic ⟨n.val + 1, h⟩)
    else s.setPoint (.respond .ok (decide (s.M = Config.magic)))
  | .wrapHead n room =>
    if h : n.val + 1 < 3 then s.setPoint (.wrapHead ⟨n.val + 1, h⟩ room)
    else
      let s := (s.setH 0).setF flipSet
      if room then s.startPut else s.setPoint (.respond .ok false)
  | .put => if s.I.toNat < s.ARG.toNat then s.setPoint (.putStore b) else s.nextPut
  | .putStore _ => s.nextPut
  | .commitHead n =>
    if h : n.val + 1 < 2 then s.setPoint (.commitHead ⟨n.val + 1, h⟩) else s.setPoint (.respond .ok true)
  | .wrapTail n data =>
    if h : n.val + 1 < 3 then s.setPoint (.wrapTail ⟨n.val + 1, h⟩ data)
    else
      let s := (s.setT 0).setF flipClear
      if data then s.startGet else s.setPoint (.respond .ok false)
  | .get => s.setPoint (.getHb b)
  | .getHb _ => s.nextGet
  | .commitTail n =>
    if h : n.val + 1 < 2 then s.setPoint (.commitTail ⟨n.val + 1, h⟩) else s.setPoint (.respond .ok true)
  | .respond _ _ => s

/-- One event of the transaction in progress: the access asked for happens, or faults (60_exceptions R215), and the
sequencer moves on. With nothing due nothing happens. -/
def State.event (s : State) : Result :=
  match s.request with
  | none => .next s
  | some (.storeRead a) =>
    if a < Config.capacity then .next ((s.storeRead a).advance (s.store.read a)) else s.raise a
  | some (.storeWrite a v) =>
    if a < Config.capacity then .next ((s.storeWrite a v).advance v) else s.raise a
  | some (.hbRead i) => .next ((s.hbRead i).advance (s.hb.read i))
  | some (.hbWrite i v) => .next ((s.hbWrite i v).advance v)
  | some (.respond status result) => .next (s.respond status result)

/-- Accept a command word and decode it (40_engine R101, R102): the first event of its transaction is due. -/
def State.begin (s : State) (w : Word) : State :=
  let s := s.accept w
  match decode w with
  | .error _ => s.setPoint (.respond .errOpcode false)
  | .ok (.format pageSize) =>
    if pageSize = 0 then s.setPoint (.respond .errArg false) else (s.setP pageSize).setPoint (.format 0)
  | .ok (.write _) => s.setPoint (.fetch 0)
  | .ok .read => s.setPoint (.fetch 0)
  | .ok .isFull => s.setPoint (.fetch 0)
  | .ok .containsData => s.setPoint (.fetch 0)
  | .ok .isInitialized => s.setPoint (.magic 0)

/-- `n` events, stopping at a fault. -/
def State.events : Nat → State → Result
  | 0, s => .next s
  | n + 1, s => andThen s.event (State.events n)

end Sys2Proof.Machine
end

