-- ==== Sys2Proof/Machine/Step.lean ====
section
/-! DEFINITION. One step of the machine: the reaction to its inputs (30_encoding R91, R97), or the next event of the
transaction in progress. -/

namespace Sys2Proof.Machine

/-- The step. Reset comes first (10_state R36: it forces IDLE from any state). A recorded fault issues no further event
(60_exceptions R215). An idle engine accepts a presented word (40_engine R101) and runs its transaction: event by event
when `byEvent`, whole otherwise (log 5). A presented response waits until it is taken (R103). An engine with nothing to
do stays as it is (60_exceptions R234). -/
def step (s : State) : Host.Outcome State Fault Refusal :=
  if s.rst then .next s.resetEngine
  else match s.faultRec with
    | some addr => .fault (.storeRange addr s)
    | none =>
      match s.seq with
      | .idle =>
        match s.cmd with
        | none => .next s
        | some w =>
          if s.byEvent then .next (s.begin w)
          else match decode w with
            | .ok i => exec i s
            | .error _ => .next (s.refuseWord w)
      | .busy _ => s.event
      | .resp => if s.rspReady then .next s.takeResponse else .next s

/-- `s` with the command of `tableWord nbits w` presented to an idle engine that runs whole transactions, so that the
very next step accepts and runs it (log 9). -/
def State.withFetchWord (s : State) (nbits w : Nat) : State :=
  { s with cmd := some (tableWord nbits w), seq := .idle, point := .rest, faultRec := none, rst := false, byEvent := false }

end Sys2Proof.Machine
end

