-- ==== Sys2Proof/Machine/Agents.lean ====
section
/-! DEFINITION. The agents around the engine (00_scope R8): what the host, another agent on the store, and the
environment may do between two steps, and a run of the whole system: moves and steps in any order, so that a reset or a
power loss falls between any two of the engine's events (70_reset R242). A move the contract forbids is no move (93_implementation_defined H1, H2;
log 17). -/

namespace Sys2Proof.Machine

/-- No command is in progress: none is accepted whose response is not yet presented (70_reset R250). -/
def State.betweenCommands (s : State) : Bool :=
  match s.seq with
  | .idle => true
  | .busy _ => false
  | .resp => true

/-- The moves of the other agents. -/
inductive Move where
  /-- Host: present a command word (30_encoding R91) -/
  | present (w : Word)
  /-- Host: be ready, or not, to take a response (30_encoding R91) -/
  | setReady (ready : Bool)
  /-- Host: set a byte of HB (20_memory R60) -/
  | hostWrite (idx : Nat) (value : Byte)
  /-- another agent: write a byte of the store (70_reset R252) -/
  | externalWrite (addr : Nat) (value : Byte)
  /-- Environment: assert reset, or lose power (70_reset R242) -/
  | assertReset
  /-- the model's own: from the next command on, a step is one event (true) or one whole transaction (false) (log 5) -/
  | setByEvent (byEvent : Bool)
  deriving DecidableEq, Repr

/-- A presented word stays presented until it is accepted (40_engine R101: it waits), so a second one is no move. -/
def State.present (s : State) (w : Word) : Option State :=
  if s.cmd = none then some { s with cmd := some w } else none

/-- The host writes HB only between commands (20_memory R60, 70_reset R251). -/
def State.hostWrite (s : State) (idx : Nat) (value : Byte) : Option State :=
  if s.betweenCommands ∧ idx < hbSize then some { s with hb := s.hb.write idx value } else none

/-- Another agent writes the store only between commands (70_reset R250, R252), and only addresses it has. -/
def State.externalWrite (s : State) (addr : Nat) (value : Byte) : Option State :=
  if s.betweenCommands ∧ addr < Config.capacity then some { s with store := s.store.write addr value } else none

/-- The effect of a move, if it is one. -/
def State.move (s : State) : Move → Option State
  | .present w => s.present w
  | .setReady ready => some { s with rspReady := ready }
  | .hostWrite idx value => s.hostWrite idx value
  | .externalWrite addr value => s.externalWrite addr value
  | .assertReset => some { s with rst := true }
  | .setByEvent byEvent => some { s with byEvent := byEvent }

/-- The machine at first power-up over any store (70_reset R241), with any host buffer. It runs event by event (log 5). -/
def State.powerUp (store hb : Memory) : State := { State.reset with store := store, hb := hb }

/-- One thing that happens in a run of the system (00_scope R8): another agent moves, or the engine steps. -/
inductive Action where
  | move (m : Move)
  | step
  deriving DecidableEq, Repr

/-- The state after an action; none where the move is no move, or the engine stops. -/
def State.act (s : State) : Action → Option State
  | .move m => s.move m
  | .step =>
    match Machine.step s with
    | .next t => some t
    | .fault _ => none
    | .refused _ => none

/-- The state after a run of the system, action by action. -/
def State.run : List Action → State → Option State
  | [], s => some s
  | a :: rest, s => (s.act a).bind (State.run rest)

/-- The host's part in one command, and n steps of the engine: the word is presented, and the host is ready to take the
response (30_encoding R91). -/
def serve (w : Word) (n : Nat) : List Action :=
  .move (.present w) :: .move (.setReady true) :: List.replicate n .step

/-- A power loss or a reset after n steps of the engine on the presented word: the cut (70_reset R242). -/
def cutAfter (w : Word) (n : Nat) : List Action :=
  .move (.present w) :: (List.replicate n .step ++ [.move .assertReset, .step])

end Sys2Proof.Machine
end

