-- ==== Sys2Proof/Machine/Assembler.lean ====
section
/-! DEFINITION. The assembler syntax of 30_encoding R87: one line, one command word, no pseudo-instruction (R88). -/

namespace Sys2Proof

/-- A line of a host command sequence (R87). -/
inductive AsmLine where
  | format (n : Nat)
  | write (n : Nat)
  | read
  | isFull
  | containsData
  | isInitialized
  /-- `.word w`: any 32-bit word, legal or not -/
  | word (w : Word)
  deriving DecidableEq, Repr

/-- The operand ranges of R87. -/
def AsmLine.wellFormed : AsmLine → Bool
  | .format n => decide (1 ≤ n ∧ n ≤ 65535)
  | .write n => decide (n ≤ 65535)
  | .read => true
  | .isFull => true
  | .containsData => true
  | .isInitialized => true
  | .word _ => true

/-- The word of a line; `none` for an operand out of its range (R87). -/
def AsmLine.assemble (line : AsmLine) : Option Word :=
  if line.wellFormed then
    match line with
    | .format n => some (BitVec.ofNat 32 (n <<< 16 ||| 0x1))
    | .write n => some (BitVec.ofNat 32 (n <<< 16 ||| 0x2))
    | .read => some 0x00000003
    | .isFull => some 0x00000004
    | .containsData => some 0x00000005
    | .isInitialized => some 0x00000006
    | .word w => some w
  else none

end Sys2Proof
end

