-- ==== Sys2Proof/Machine/Ports.lean ====
section
/-! DEFINITION. The engine's outputs as functions of its state (30_encoding R91, R95, R96). At this level a handshake is
one event (R91), so the acknowledge inputs st_ack and hb_ack and the read data are part of the event (log 18). -/

namespace Sys2Proof.Machine

/-- cmd_ready: 1 exactly when SEQ is IDLE (R91). -/
def State.cmdReady (s : State) : Bool := decide (s.seq = .idle)

/-- rsp_valid: 1 exactly when SEQ is RESP (R91). -/
def State.rspValid (s : State) : Bool := decide (s.seq = .resp)

/-- The request of the transaction in progress: none when no transaction runs or a fault is recorded. -/
def State.due (s : State) : Option Request :=
  match s.seq with
  | .idle => none
  | .busy _ => if s.faultRec = none then s.request else none
  | .resp => none

/-- The outputs of the store port (R95). -/
structure StorePort where
  /-- st_req -/
  req : Bool
  /-- st_we -/
  we : Bool
  /-- st_addr -/
  addr : BitVec 16
  /-- st_wdata -/
  wdata : Byte
  deriving DecidableEq, Repr

/-- The outputs of the host page buffer port (R96). -/
structure HbPort where
  /-- hb_req -/
  req : Bool
  /-- hb_we -/
  we : Bool
  /-- hb_idx -/
  idx : BitVec 16
  /-- hb_wdata -/
  wdata : Byte
  deriving DecidableEq, Repr

/-- The store port. An address at or above C is never presented: it faults (60_exceptions R215). Outputs that mean
nothing at the moment (all but st_req when there is no request, st_wdata on a read) are 0 (log 18). -/
def State.storePort (s : State) : StorePort :=
  match s.due with
  | some (.storeRead a) => if a < Config.capacity then ⟨true, false, BitVec.ofNat 16 a, 0⟩ else ⟨false, false, 0, 0⟩
  | some (.storeWrite a v) => if a < Config.capacity then ⟨true, true, BitVec.ofNat 16 a, v⟩ else ⟨false, false, 0, 0⟩
  | some (.hbRead _) => ⟨false, false, 0, 0⟩
  | some (.hbWrite _ _) => ⟨false, false, 0, 0⟩
  | some (.respond _ _) => ⟨false, false, 0, 0⟩
  | none => ⟨false, false, 0, 0⟩

/-- The host page buffer port. -/
def State.hbPort (s : State) : HbPort :=
  match s.due with
  | some (.hbRead i) => ⟨true, false, BitVec.ofNat 16 i, 0⟩
  | some (.hbWrite i v) => ⟨true, true, BitVec.ofNat 16 i, v⟩
  | some (.storeRead _) => ⟨false, false, 0, 0⟩
  | some (.storeWrite _ _) => ⟨false, false, 0, 0⟩
  | some (.respond _ _) => ⟨false, false, 0, 0⟩
  | none => ⟨false, false, 0, 0⟩

end Sys2Proof.Machine
end

