-- ==== Sys2Proof/Safety.lean ====
section
/-! DEFINITION. The terms the claims use: the invariant of every step, the well-formed metadata states of 40_engine
R120, the logical queue of R123, and the events of a transaction. -/

namespace Sys2Proof.Machine

/-! ### The invariant every step keeps -/

/-- A due response reports a RESULT only with STATUS OK (30_encoding R90). -/
def Point.wf : Point → Bool
  | .respond status result => decide (status = .ok) || !result
  | _ => true

/-- The sequencer's parts agree (10_state R35, R36): while BUSY(k), k events are recorded and one is due; otherwise none
is due, and in RESP the last recorded event is the response that stands on the port. -/
def State.seqWf (s : State) : Bool :=
  match s.seq with
  | .idle => decide (s.point = .rest)
  | .busy k => decide (s.log.length = k ∧ s.point ≠ .rest) && s.point.wf
  | .resp => decide (s.point = .rest ∧ s.log.head? = some (.respond s.rspWord) ∧ s.rspWord.getLsbD 0 = s.RES)

/-- The invariant: both memories are canonical and inside their address spaces, the response word is one of the four
of 30_encoding R90, no fault is recorded, and the sequencer's parts agree. -/
abbrev State.wf (s : State) : Prop :=
  Memory.wf s.store ∧ Memory.below Config.capacity s.store ∧ Memory.wf s.hb ∧ Memory.below hbSize s.hb
    ∧ s.rspWord ∈ [(0x00 : Byte), 0x01, 0x02, 0x04] ∧ s.faultRec = none ∧ s.seqWf = true

/-! ### The end of a run (70_reset R262) -/

/-- A host program, the sequence of its command words, has run to its end (R262): each of its words has been accepted in
this run and its response taken, the last one's too, and no other; no word waits; SEQ is IDLE; no fault is recorded. A
reset starts a new run (70_reset R240), so a program a cut interrupts has not ended. -/
abbrev State.ended (program : List Word) (s : State) : Prop :=
  program ≠ [] ∧ s.answered.map Prod.fst = program ∧ s.cmd = none ∧ s.seq = .idle ∧ s.faultRec = none

/-- The end state of R262. -/
structure EndState where
  /-- the store contents -/
  store : Memory
  /-- HB -/
  hb : Memory
  /-- the sequence of responses, oldest first -/
  responses : List Byte
  deriving DecidableEq, Repr

/-- What R262 calls the end state, of a state in which a program has ended. -/
def State.endState (s : State) : EndState := ⟨s.store, s.hb, s.answered.map Prod.snd⟩

/-- IDLE, with no command presented, no reset asserted and no fault recorded: where a command can be presented and
accepted by the next step. -/
abbrev State.awaiting (s : State) : Prop := s.seq = .idle ∧ s.cmd = none ∧ s.rst = false ∧ s.faultRec = none

/-! ### Well-formed metadata (40_engine R120 to R123) -/

/-- CAP(P) = floor(MS / P) (00_scope R6, R16). -/
def cap (P : Nat) : Nat := Config.metaStart / P

/-- INV(H, T, P, F) of R120. -/
structure Inv (H T P : Nat) (F : Byte) : Prop where
  pageSize_pos : 1 ≤ P
  head_aligned : H % P = 0
  tail_aligned : T % P = 0
  head_le : H ≤ cap P * P
  tail_le : T ≤ cap P * P
  flip_legal : F = flipClear ∨ F = flipSet
  linear : F = flipClear → T ≤ H
  lapped : F = flipSet → H ≤ T

/-- INV of the persisted fields. -/
def State.inv (s : State) : Prop := Inv s.head.toNat s.tail.toNat s.pageSize.toNat s.flip

/-- N of R123, the number of stored pages. -/
def pageCount (H T P : Nat) (F : Byte) : Nat :=
  if F = 0 then (H - T) / P else cap P - (T - H) / P

/-- The page addresses a, a + P, ... below b. -/
def pagesFrom (a b P : Nat) : List Nat := (List.range ((b - a) / P)).map fun k => a + k * P

/-- Q of R123, the page addresses in read order. -/
def queue (H T P : Nat) (F : Byte) : List Nat :=
  if F = 0 then pagesFrom T H P else pagesFrom T (cap P * P) P ++ pagesFrom 0 H P

/-- N of the persisted fields. -/
def State.pageCount (s : State) : Nat :=
  Machine.pageCount s.head.toNat s.tail.toNat s.pageSize.toNat s.flip

/-- Q of the persisted fields. -/
def State.queue (s : State) : List Nat :=
  Machine.queue s.head.toNat s.tail.toNat s.pageSize.toNat s.flip

/-- The n bytes of a memory from address a on. -/
def bytesAt (m : Memory) (a n : Nat) : List Byte := (List.range n).map fun i => m.read (a + i)

/-- The stored records, oldest first: the pages of Q. -/
def State.records (s : State) : List (List Byte) := s.queue.map fun a => bytesAt s.store a s.pageSize.toNat

/-- The record a WRITE of LEN bytes hands over: truncated or padded to pageSize (20_memory R62, R63). -/
def State.newRecord (s : State) (len : Half) : List Byte :=
  (List.range s.pageSize.toNat).map fun i => recordByte s.hb len i

/-! ### The leaves, on the persisted fields -/

/-- WriteCase on the persisted fields. -/
def State.writeLeaf (s : State) : WriteLeaf := writeCase s.head s.tail s.pageSize s.flip

/-- ReadCase on the persisted fields. -/
def State.readLeaf (s : State) : ReadLeaf := readCase s.head s.tail s.pageSize s.flip

/-- The base of a WRITE's transfer: 0 after the wrap commit, else head (20_memory R61). -/
def State.writeBase (s : State) : Half := if s.writeLeaf = .wrapRoom then 0 else s.head

/-- The base of a READ's transfer: 0 after the wrap commit, else tail. -/
def State.readBase (s : State) : Half := if s.readLeaf = .wrapData then 0 else s.tail

/-- The store a READ's transfer reads: after the wrap commit, if the leaf makes one (43_read R171). -/
def State.readStore (s : State) : Memory :=
  if s.readLeaf = .wrapData then ((s.store.write 0x7FE6 0x00).write 0x7FE7 0x00).write 0x7FEA 0x00 else s.store

/-- Every address of the transfer is inside the store: there is no byte to move, or the last one is below C. -/
abbrev fits (base P : Half) : Prop := P = 0 ∨ base.toNat + P.toNat ≤ Config.capacity

/-! ### The events of a transaction, oldest first (00_scope R12) -/

/-- n store reads at ascending addresses. -/
def readEvents (m : Memory) (a n : Nat) : List Event := (List.range n).map fun i => .storeRead (a + i) (m.read (a + i))

/-- The seven reads of the metadata fetch (40_engine R104). -/
def fetchEvents (m : Memory) : List Event := readEvents m 0x7FE4 7

/-- PutPage's events for byte i (20_memory R61): the HB read, unless it is PAD, then the store write. -/
def putEvent (hb : Memory) (len : Half) (base i : Nat) : List Event :=
  (if i < len.toNat then [Event.hbRead i (hb.read i)] else []) ++ [Event.storeWrite (base + i) (recordByte hb len i)]

/-- PutPage's events for n bytes (20_memory R61). -/
def putEvents (hb : Memory) (len : Half) (base n : Nat) : List Event := (List.range n).flatMap (putEvent hb len base)

/-- GetPage's events for byte i (20_memory R61): the store read, then the HB write. -/
def getEvent (m : Memory) (base i : Nat) : List Event :=
  [Event.storeRead (base + i) (m.read (base + i)), Event.hbWrite i (m.read (base + i))]

/-- GetPage's events for n bytes (20_memory R61). -/
def getEvents (m : Memory) (base n : Nat) : List Event := (List.range n).flatMap (getEvent m base)

/-- CommitHead's events (40_engine R106): low byte, high byte, of the sum modulo 2^16. -/
def commitHeadEvents (v : Nat) : List Event :=
  [.storeWrite 0x7FE4 (BitVec.ofNat 8 v), .storeWrite 0x7FE5 (BitVec.ofNat 8 (v / 256))]

/-- CommitTail's events (40_engine R106). -/
def commitTailEvents (v : Nat) : List Event :=
  [.storeWrite 0x7FE6 (BitVec.ofNat 8 v), .storeWrite 0x7FE7 (BitVec.ofNat 8 (v / 256))]

/-- WrapHead's events (40_engine R106). -/
def wrapHeadEvents : List Event :=
  [.storeWrite 0x7FE4 0x00, .storeWrite 0x7FE5 0x00, .storeWrite 0x7FEA 0x01]

/-- WrapTail's events (40_engine R106). -/
def wrapTailEvents : List Event :=
  [.storeWrite 0x7FE6 0x00, .storeWrite 0x7FE7 0x00, .storeWrite 0x7FEA 0x00]

/-- The store after the writes of a log (newest first), in the order they happened. -/
def replay (m : Memory) : List Event → Memory
  | [] => m
  | .storeWrite a v :: older => (replay m older).write a v
  | .storeRead _ _ :: older => replay m older
  | .hbRead _ _ :: older => replay m older
  | .hbWrite _ _ :: older => replay m older
  | .respond _ :: older => replay m older

/-- How many bytes PutPage has stored after m events, each byte of the record's first L taking an HB read and a store
write, each further one a store write (20_memory R61, R62). -/
def putDone (L m : Nat) : Nat := if m ≤ 2 * L then m / 2 else m - L

/-- The kinds of events 40_engine R130 counts. -/
inductive EventKind where
  | storeRead
  | storeWrite
  | hbRead
  | hbWrite
  | respond
  deriving DecidableEq, Repr

/-- The kind of an event. -/
def Event.kind : Event → EventKind
  | .storeRead _ _ => .storeRead
  | .storeWrite _ _ => .storeWrite
  | .hbRead _ _ => .hbRead
  | .hbWrite _ _ => .hbWrite
  | .respond _ => .respond

/-- How many events of a kind a transaction issued. -/
def State.count (s : State) (k : EventKind) : Nat := s.log.countP fun e => decide (e.kind = k)

/-! ### Frames -/

/-- What no command that completes changes: the inputs rsp_ready and rst, and the fault record. (The accepted word and the
model's own fields have their statement, AcceptedWordLeavesThePort.) -/
abbrev State.sameInputs (s t : State) : Prop :=
  t.rspReady = s.rspReady ∧ t.rst = s.rst ∧ t.faultRec = s.faultRec

/-- A response word stands on the port (40_engine R103). -/
abbrev State.responded (t : State) (word : Byte) : Prop :=
  t.seq = .resp ∧ t.point = .rest ∧ t.rspWord = word ∧ t.RES = word.getLsbD 0

/-- What accepting a command latches (40_engine R101). -/
abbrev State.latched (t : State) (i : Instr) : Prop := t.OP = i.opcode ∧ t.RSV = 0 ∧ t.ARG = i.arg

end Sys2Proof.Machine
end

