-- ==== Sys2Proof/Certificates/Slice0/Obligations.lean ====
section
/-! DEFINITION. The statements for the provers. Each docstring names the rules of spec/ it states or rests on. -/

open Sys2Proof Sys2Proof.Machine

/-! ### Encoding and decoding -/

/-- 30_encoding R81, R83, R85: decode and encode are inverse: a word decodes to a command exactly when it is the word the
encoder gives the command. So every command at every operand value comes back, and no bit of a legal word is dropped. -/
def Obligations.DecodeAndEncodeAgree : Prop :=
  ∀ (w : Word) (i : Instr), decode w = .ok i ↔ encode i = w

/-- 30_encoding R84: the legal words are the three conditions' words, written on the word as a number; every other word
is accepted by an idle engine, issues no store or HB event, is answered with ERR_OPCODE and RESULT 0, and changes nothing
else but OP, RSV and ARG, which latch the word: in one step when the engine runs whole transactions, in an accepting step
and one event when it runs event by event, with the same state after it. The two granularities are the model's (log 5), and
so is RSV as a register (log 14). -/
def Obligations.IllegalWordsAreRefused : Prop :=
  ∀ w : Word,
    ((∃ i, decode w = .ok i) ↔
      w.toNat % 16 ∈ [1, 2, 3, 4, 5, 6] ∧ w.toNat / 16 % 4096 = 0
        ∧ (w.toNat % 16 ∈ [1, 2] ∨ w.toNat / 65536 = 0))
    ∧ ((¬ ∃ i, decode w = .ok i) →
        ∀ s : State, ∃ t : State,
          (s.rst = false → s.faultRec = none → s.seq = .idle → s.cmd = some w →
              (s.byEvent = false → step s = .next t) ∧ (s.byEvent = true → step s = .next (s.begin w)))
            ∧ State.events 1 (s.begin w) = .next t
            ∧ t.log = [.respond 0x02] ∧ t.responded 0x02 ∧ t.store = s.store ∧ t.hb = s.hb
            ∧ t.OP.toNat = w.toNat % 16 ∧ t.RSV.toNat = w.toNat / 16 % 4096 ∧ t.ARG.toNat = w.toNat / 65536
            ∧ t.H = s.H ∧ t.T = s.T ∧ t.P = s.P ∧ t.F = s.F ∧ t.M = s.M ∧ t.I = s.I ∧ s.sameInputs t)

/-- 30_encoding R83 and the mask and match columns of spec/opcode_table.json: a word decodes to a command exactly when it
matches the command's row and carries its operand in ARG. -/
def Obligations.DecodeFollowsOpcodeTable : Prop :=
  ∀ (w : Word) (i : Instr),
    decode w = .ok i ↔ w &&& i.tableMask = i.tableMatch ∧ (i.tableMask = 0x0000FFFF → i.arg = argField w)

/-- 95_test_vectors section 2.1, words written out: V-D1 to V-D15. The spec's vectors say which words are refused; which of
two reasons the decoder names for V-D14 (RSV = 1 and OP = 0) is the model's choice (log 25). -/
def Obligations.TestVectorWordsDecode : Prop :=
  decode 0x00000000 = .error (.reservedOpcode 0)
    ∧ decode 0x00000001 = .ok (.format 0)
    ∧ decode 0x00000011 = .error (.reservedBits 1)
    ∧ decode 0x00400001 = .ok (.format 64)
    ∧ decode 0x00400011 = .error (.reservedBits 1)
    ∧ decode 0xFFFF0001 = .ok (.format 65535)
    ∧ decode 0xFFFF0002 = .ok (.write 65535)
    ∧ decode 0x00000003 = .ok .read
    ∧ decode 0x00010003 = .error (.argument 3 1)
    ∧ decode 0x80000004 = .error (.argument 4 0x8000)
    ∧ decode 0x00000006 = .ok .isInitialized
    ∧ decode 0x00000007 = .error (.reservedOpcode 7)
    ∧ decode 0x0000000F = .error (.reservedOpcode 15)
    ∧ decode 0x00000010 = .error (.reservedBits 1)
    ∧ decode 0x0000FFF2 = .error (.reservedBits 0xFFF)

/-- 30_encoding R87: each assembler line gives one word, which decodes to the line's command; an operand out of range
gives none. -/
def Obligations.AssemblerLinesDecode : Prop :=
  (∀ n : Nat, 1 ≤ n → n ≤ 65535 →
      ∃ w : Word, (AsmLine.format n).assemble = some w ∧ w.toNat = n * 65536 + 1
        ∧ decode w = .ok (.format (BitVec.ofNat 16 n)))
    ∧ (∀ n : Nat, n ≤ 65535 →
        ∃ w : Word, (AsmLine.write n).assemble = some w ∧ w.toNat = n * 65536 + 2
          ∧ decode w = .ok (.write (BitVec.ofNat 16 n)))
    ∧ (∃ w : Word, AsmLine.read.assemble = some w ∧ decode w = .ok .read)
    ∧ (∃ w : Word, AsmLine.isFull.assemble = some w ∧ decode w = .ok .isFull)
    ∧ (∃ w : Word, AsmLine.containsData.assemble = some w ∧ decode w = .ok .containsData)
    ∧ (∃ w : Word, AsmLine.isInitialized.assemble = some w ∧ decode w = .ok .isInitialized)
    ∧ (∀ w : Word, (AsmLine.word w).assemble = some w)
    ∧ (AsmLine.format 0).assemble = none
    ∧ (∀ n : Nat, 65535 < n → (AsmLine.format n).assemble = none ∧ (AsmLine.write n).assemble = none)

/-! ### The step -/

/-- 40_engine R100, R102: an idle engine presented with a word that decodes to i steps to exactly what exec of i answers
when it runs whole transactions, and to the start of i's transaction when it runs event by event; a busy engine steps to
the next event. The two granularities are the model's (log 5). -/
def Obligations.StepRunsThePresentedCommand : Prop :=
  (∀ (s : State) (w : Word) (i : Instr),
      s.rst = false → s.faultRec = none → s.seq = .idle → s.cmd = some w → decode w = .ok i →
        (s.byEvent = false → step s = exec i s)
          ∧ (s.byEvent = true → step s = .next (s.begin w) ∧ (s.begin w).latched i ∧ (s.begin w).seq = .busy 0))
    ∧ ∀ (s : State) (k : Nat), s.rst = false → s.faultRec = none → s.seq = .busy k → step s = s.event

/-- 40_engine R101: accepting latches OP, ARG and RSV and sets SEQ to BUSY(0); a command presented while SEQ is not IDLE
is not accepted and waits. The model's own in it: a step that only accepts (log 5), the accepted word leaving the command
port (log 8), the event log that starts anew (log 12), RSV as a register (log 14), and the waiting word that a reset leaves
waiting (log 11). -/
def Obligations.AcceptLatchesTheWord : Prop :=
  (∀ (s : State) (w : Word), s.rst = false → s.faultRec = none → s.seq = .idle → s.cmd = some w → s.byEvent = true →
      ∃ t : State, step s = .next t ∧ t.OP.toNat = w.toNat % 16 ∧ t.RSV.toNat = w.toNat / 16 % 4096
        ∧ t.ARG.toNat = w.toNat / 65536 ∧ t.seq = .busy 0 ∧ t.log = [] ∧ t.cmd = none
        ∧ t.store = s.store ∧ t.hb = s.hb)
    ∧ (∀ s t : State, s.seq ≠ .idle → step s = .next t → t.cmd = s.cmd)

/-- 30_encoding R91, 40_engine R103 and 60_exceptions R234: an engine with nothing to do issues no event: idle without a
command it stays as it is, and a presented response stays as it is until the host takes it, which makes SEQ IDLE and adds
the response to the run's responses (70_reset R262, log 27). The model's own in it: waiting is a step that changes nothing
(log 16), and the response word keeps its value after it is taken (log 15). -/
def Obligations.EngineWaits : Prop :=
  ∀ s : State, s.rst = false → s.faultRec = none →
    (s.seq = .idle → s.cmd = none → step s = .next s)
    ∧ (s.seq = .resp → s.rspReady = false → step s = .next s)
    ∧ (s.seq = .resp → s.rspReady = true → ∃ t : State, step s = .next t ∧ t.seq = .idle ∧ t.faultRec = none
        ∧ t.answered = s.answered ++ [(s.command, s.rspWord)] ∧ t.rspWord = s.rspWord ∧ t.store = s.store ∧ t.hb = s.hb ∧ t.log = s.log)

/-- 70_reset R240: reset, from any state (a faulted one too), sets SEQ to IDLE, so cmd_ready is 1 and rsp_valid 0, the
response word to 0x00, RES to 0, clears the fault record, issues no event and changes no persisted or HB byte. -/
def Obligations.ResetForcesIdle : Prop :=
  ∀ s : State, s.rst = true →
    ∃ t : State, step s = .next t ∧ t.seq = .idle ∧ t.cmdReady = true ∧ t.rspValid = false ∧ t.rspWord = 0x00
      ∧ t.RES = false ∧ t.faultRec = none ∧ t.log = [] ∧ t.store = s.store ∧ t.hb = s.hb

/-- The invariant holds right after reset, over any canonical store and host buffer (70_reset R241: the initial store is
arbitrary). The reset state itself holds the model's values for what the spec leaves open (logs 1, 2, 4, 8). -/
def Obligations.ResetMeetsTheInvariant : Prop :=
  State.reset.wf
    ∧ ∀ store hb : Memory, store.wf → store.below Config.capacity → hb.wf → hb.below hbSize →
        (State.powerUp store hb).wf

/-- Every step from every state that meets the invariant gives a state that meets it: both memories canonical and inside
their address spaces, the response word one of the four of 30_encoding R90, SEQ in step with the event log, an event due
exactly while BUSY. -/
def Obligations.StepKeepsTheInvariant : Prop :=
  ∀ s t : State, s.wf → step s = .next t → t.wf

/-- The other agents' moves keep the invariant too (00_scope R8). -/
def Obligations.MovesKeepTheInvariant : Prop :=
  ∀ (s t : State) (m : Move), s.wf → s.move m = some t → t.wf

/-! ### The sequencer -/

/-- 10_state R36: with a step per event, IDLE becomes BUSY(0) when a command is accepted, BUSY(k) becomes BUSY(k+1) after
each event, and RESP when the response is issued; RESP becomes IDLE when the response is taken. No other transition
exists, except reset, which forces IDLE from any state. The model's own in it: a step per event (log 5), and waiting as a
step that leaves the state as it is (log 16). -/
def Obligations.SequencerTransitions : Prop :=
  ∀ s t : State, step s = .next t →
    (s.rst = true → t.seq = .idle)
      ∧ (s.rst = false → s.wf → s.byEvent = true →
        match s.seq with
        | .idle => (s.cmd = none ∧ t = s) ∨ (s.cmd ≠ none ∧ t.seq = .busy 0)
        | .busy k =>
          (t.seq = .busy (k + 1) ∧ ∃ e : Event, e.kind ≠ .respond ∧ t.log = e :: s.log)
            ∨ (t.seq = .resp ∧ ∃ w, t.log = .respond w :: s.log)
        | .resp => (s.rspReady = false ∧ t = s) ∨ (s.rspReady = true ∧ t.seq = .idle))

/-- 10_state R35, 70_reset R261: a busy engine always has an event due: its next step issues exactly one event, or is the
StoreRange fault of a page transfer. -/
def Obligations.BusyEngineIssuesOneEvent : Prop :=
  ∀ (s : State) (k : Nat), s.wf → s.rst = false → s.seq = .busy k →
    (∃ t e, step s = .next t ∧ t.log = e :: s.log)
      ∨ (∃ a l, step s = .fault (.storeRange a l) ∧ Config.capacity ≤ a ∧ l.log = s.log ∧ l.store = s.store ∧ l.hb = s.hb)

/-- 00_scope R12, 10_state R35: a whole transaction is its events run one by one from acceptance to its end, with the same
final state and the same fault, and it has at most 131083 events; an illegal word's transaction is the one event that refuses
it. It ties the model's two granularities (log 5). -/
def Obligations.TransactionIsItsEvents : Prop :=
  (∀ (i : Instr) (s : State), ∃ n, n ≤ 131083 ∧ State.events n (s.begin (encode i)) = exec i s)
    ∧ ∀ (w : Word) (s : State), (¬ ∃ i, decode w = .ok i) → State.events 1 (s.begin w) = .next (s.refuseWord w)

/-- 40_engine R104: WRITE, READ, IS_FULL and CONTAINS_DATA begin with exactly the seven reads at 0x7FE4..0x7FEA in that
order, which load H, T, P and F; FORMAT and IS_INITIALIZED read none of those bytes; no WRITE reads magic, and no READ
from a well-formed state does (in an ill-formed state its page may lie there, 10_state R26). -/
def Obligations.FetchReadsSevenBytes : Prop :=
  (∀ (len : Half) (s : State) (i : Instr), i ∈ [.write len, .read, .isFull, .containsData] →
      ∃ t : State, State.events 7 (s.begin (encode i)) = .next t
        ∧ t.log.reverse = [.storeRead 0x7FE4 (s.store.read 0x7FE4), .storeRead 0x7FE5 (s.store.read 0x7FE5),
            .storeRead 0x7FE6 (s.store.read 0x7FE6), .storeRead 0x7FE7 (s.store.read 0x7FE7),
            .storeRead 0x7FE8 (s.store.read 0x7FE8), .storeRead 0x7FE9 (s.store.read 0x7FE9),
            .storeRead 0x7FEA (s.store.read 0x7FEA)]
        ∧ t.H.toNat = (s.store.read 0x7FE4).toNat + 256 * (s.store.read 0x7FE5).toNat
        ∧ t.T.toNat = (s.store.read 0x7FE6).toNat + 256 * (s.store.read 0x7FE7).toNat
        ∧ t.P.toNat = (s.store.read 0x7FE8).toNat + 256 * (s.store.read 0x7FE9).toNat
        ∧ t.F = s.store.read 0x7FEA ∧ t.store = s.store ∧ t.hb = s.hb)
    ∧ (∀ (p : Half) (s t : State) (i : Instr), i ∈ [.format p, .isInitialized] → exec i s = .next t →
        ∀ a v, Event.storeRead a v ∈ t.log → a < 0x7FE4)
    ∧ (∀ (len : Half) (s t : State), exec (.write len) s = .next t →
        ∀ a v, Event.storeRead a v ∈ t.log → 0x7FE4 ≤ a)
    ∧ (∀ s t : State, s.inv → exec .read s = .next t →
        ∀ a v, Event.storeRead a v ∈ t.log → a < 0x7FE0 ∨ 0x7FE4 ≤ a)

/-- 70_reset R242: a cut after any number of events leaves the store with exactly the writes issued before it, in order;
reset then presents no response and changes no byte. -/
def Obligations.CutLeavesTheWritesIssuedBefore : Prop :=
  ∀ (n : Nat) (w : Word) (s t : State), State.events n (s.begin w) = .next t →
    t.store = replay s.store t.log
      ∧ ∃ u : State, step { t with rst := true } = .next u ∧ u.store = t.store ∧ u.hb = t.hb ∧ u.seq = .idle
        ∧ u.rspValid = false ∧ u.rspWord = 0x00

/-- 20_memory R65: every store read of a transaction returns the byte the store held when it was issued: the byte after
the writes issued before it, in order. -/
def Obligations.ReadsSeeTheWritesBefore : Prop :=
  ∀ (i : Instr) (s t : State) (a : Nat) (v : Byte) (newer older : List Event),
    exec i s = .next t → t.log = newer ++ .storeRead a v :: older →
      v = (replay s.store older).read a

/-- 30_encoding R90 and 40_engine R103: a command that completes ends with exactly one response, after all its other
events; the response word is one of 0x00, 0x01 and 0x04, stands on the response port, and is 0x04 (ERR_ARG) exactly for
FORMAT 0. -/
def Obligations.OneResponseEndsEachCommand : Prop :=
  ∀ (i : Instr) (s t : State), exec i s = .next t →
    ∃ (word : Byte) (earlier : List Event), t.log = .respond word :: earlier
      ∧ (∀ e ∈ earlier, e.kind ≠ .respond) ∧ t.responded word ∧ word ∈ [(0x00 : Byte), 0x01, 0x04]
      ∧ (word = 0x04 ↔ i = .format 0)

/-- 30_encoding R90: RESULT is bit 0 and STATUS is bits [2:1], with codes 0, 1 and 2; bits [7:3] are 0. -/
def Obligations.ResponseWordFields : Prop :=
  ∀ (st : Status) (r : Bool),
    (responseWord st r).toNat % 2 = r.toNat
      ∧ (responseWord st r).toNat / 2 % 4 = (match st with | .ok => 0 | .errOpcode => 1 | .errArg => 2)
      ∧ (responseWord st r).toNat / 8 = 0

/-- 10_state R31: no command reads a working register an earlier command or a reset left: two states with the same store
and HB, whatever else differs (the model's own fields, logs 5, 12 and 27, among it), run a command alike. -/
def Obligations.WorkingRegistersAreDead : Prop :=
  ∀ (i : Instr) (s s' : State), s.store = s'.store → s.hb = s'.hb →
    (∀ t, exec i s = .next t → ∃ t', exec i s' = .next t' ∧ t'.store = t.store ∧ t'.hb = t.hb ∧ t'.log = t.log
        ∧ t'.rspWord = t.rspWord ∧ t'.RES = t.RES)
      ∧ (∀ a l, exec i s = .fault (.storeRange a l) → ∃ l', exec i s' = .fault (.storeRange a l')
          ∧ l'.store = l.store ∧ l'.hb = l.hb ∧ l'.log = l.log)

/-! ### FORMAT -/

/-- 41_format R141: FORMAT of p, p not 0, completes from every state with exactly the 11 writes in that order, then the
response 0x01. -/
def Obligations.FormatWritesElevenBytes : Prop :=
  ∀ (p : Half) (s : State), p ≠ 0 →
    ∃ t : State, exec (.format p) s = .next t
      ∧ t.log.reverse =
        [.storeWrite 0x7FE4 0x00, .storeWrite 0x7FE5 0x00, .storeWrite 0x7FE6 0x00, .storeWrite 0x7FE7 0x00,
          .storeWrite 0x7FEA 0x00, .storeWrite 0x7FE8 (BitVec.ofNat 8 p.toNat),
          .storeWrite 0x7FE9 (BitVec.ofNat 8 (p.toNat / 256)),
          .storeWrite 0x7FE0 (BitVec.ofNat 8 Config.magic.toNat),
          .storeWrite 0x7FE1 (BitVec.ofNat 8 (Config.magic.toNat / 256)),
          .storeWrite 0x7FE2 (BitVec.ofNat 8 (Config.magic.toNat / 65536)),
          .storeWrite 0x7FE3 (BitVec.ofNat 8 (Config.magic.toNat / 16777216)), .respond 0x01]
      ∧ t.P = p ∧ t.responded 0x01

/-- 41_format R142: FORMAT of 0 is refused: no store event, ERR_ARG, both regions unchanged. That P keeps its value, and is
not loaded with the refused ARG, is the model's reading (log 23). -/
def Obligations.FormatZeroIsRefused : Prop :=
  ∀ s : State, ∃ t : State, exec (.format 0) s = .next t ∧ t.log = [.respond 0x04] ∧ t.responded 0x04
    ∧ t.store = s.store ∧ t.hb = s.hb ∧ t.H = s.H ∧ t.T = s.T ∧ t.P = s.P ∧ t.F = s.F ∧ t.M = s.M ∧ t.I = s.I
    ∧ t.latched (.format 0) ∧ s.sameInputs t

/-- 41_format R141, R143, R145 and 10_state R46: what FORMAT leaves: the fields are (0, 0, p, 0x00) and MAGIC; every byte
outside 0x7FE0..0x7FEA, all of HB and every register FORMAT does not load are unchanged. -/
def Obligations.FormatResultAndFrame : Prop :=
  ∀ (p : Half) (s : State), p ≠ 0 →
    ∃ t : State, exec (.format p) s = .next t ∧ t.head = 0 ∧ t.tail = 0 ∧ t.pageSize = p ∧ t.flip = 0x00
      ∧ t.magic = Config.magic
      ∧ (∀ a, a < 0x7FE0 ∨ 0x7FEA < a → t.store.read a = s.store.read a)
      ∧ t.hb = s.hb ∧ t.H = s.H ∧ t.T = s.T ∧ t.F = s.F ∧ t.M = s.M ∧ t.I = s.I
      ∧ t.latched (.format p) ∧ s.sameInputs t

/-- 41_format R145, interrupted FORMAT: a cut after k of the 11 writes, 7 ≤ k, leaves the fields (0, 0, p, 0x00). -/
def Obligations.InterruptedFormatFields : Prop :=
  ∀ (p : Half) (s : State) (k : Nat), p ≠ 0 → 7 ≤ k → k ≤ 11 →
    ∃ t : State, State.events k (s.begin (encode (.format p))) = .next t ∧ t.head = 0 ∧ t.tail = 0 ∧ t.pageSize = p
      ∧ t.flip = 0x00

/-! ### WRITE -/

/-- 42_write R151: the events of each leaf, in order, with the response, from every state of the leaf whose page is
inside the store (R154 is the other case); the working registers H, T, P and F are those of the pseudocode. -/
def Obligations.WriteFollowsItsLeaf : Prop :=
  ∀ (len : Half) (s : State),
    (s.flip = 0 → s.head.toNat + s.pageSize.toNat ≤ 0x7FE0 →
      ∃ t : State, exec (.write len) s = .next t
        ∧ t.log.reverse = fetchEvents s.store ++ putEvents s.hb len s.head.toNat s.pageSize.toNat
            ++ commitHeadEvents (s.head.toNat + s.pageSize.toNat) ++ [Event.respond 0x01]
        ∧ t.responded 0x01 ∧ t.H = s.head ∧ t.T = s.tail ∧ t.P = s.pageSize ∧ t.F = s.flip)
    ∧ (s.flip = 0 → 0x7FE0 < s.head.toNat + s.pageSize.toNat → s.pageSize.toNat < s.tail.toNat → fits 0 s.pageSize →
      ∃ t : State, exec (.write len) s = .next t
        ∧ t.log.reverse = fetchEvents s.store ++ wrapHeadEvents ++ putEvents s.hb len 0 s.pageSize.toNat
            ++ commitHeadEvents s.pageSize.toNat ++ [Event.respond 0x01]
        ∧ t.responded 0x01 ∧ t.H = 0 ∧ t.T = s.tail ∧ t.P = s.pageSize ∧ t.F = 0x01)
    ∧ (s.flip = 0 → 0x7FE0 < s.head.toNat + s.pageSize.toNat → ¬ s.pageSize.toNat < s.tail.toNat →
      ∃ t : State, exec (.write len) s = .next t
        ∧ t.log.reverse = fetchEvents s.store ++ wrapHeadEvents ++ [Event.respond 0x00]
        ∧ t.responded 0x00 ∧ t.H = 0 ∧ t.T = s.tail ∧ t.P = s.pageSize ∧ t.F = 0x01)
    ∧ (s.flip ≠ 0 → s.head.toNat < s.tail.toNat → fits s.head s.pageSize →
      ∃ t : State, exec (.write len) s = .next t
        ∧ t.log.reverse = fetchEvents s.store ++ putEvents s.hb len s.head.toNat s.pageSize.toNat
            ++ commitHeadEvents (s.head.toNat + s.pageSize.toNat) ++ [Event.respond 0x01]
        ∧ t.responded 0x01 ∧ t.H = s.head ∧ t.T = s.tail ∧ t.P = s.pageSize ∧ t.F = s.flip)
    ∧ (s.flip ≠ 0 → ¬ s.head.toNat < s.tail.toNat →
      ∃ t : State, exec (.write len) s = .next t
        ∧ t.log.reverse = fetchEvents s.store ++ [Event.respond 0x00]
        ∧ t.responded 0x00 ∧ t.H = s.head ∧ t.T = s.tail ∧ t.P = s.pageSize ∧ t.F = s.flip)

/-- 42_write R152, R153, R155, R156: every store byte after a WRITE that stores a page: the advanced head, the page's
bytes (which may be metadata bytes in an ill-formed state), the flag a wrap sets, and every other byte as before; HB and
the registers WRITE does not load are unchanged. A failing WRITE changes the wrap commit's three bytes at most. -/
def Obligations.WriteResultAndFrame : Prop :=
  ∀ (len : Half) (s : State),
    (s.writeLeaf.result = true → fits s.writeBase s.pageSize →
      ∃ t : State, exec (.write len) s = .next t
        ∧ (∀ a, t.store.read a =
            if a = 0x7FE4 then BitVec.ofNat 8 (s.writeBase.toNat + s.pageSize.toNat)
            else if a = 0x7FE5 then BitVec.ofNat 8 ((s.writeBase.toNat + s.pageSize.toNat) / 256)
            else if s.writeBase.toNat ≤ a ∧ a < s.writeBase.toNat + s.pageSize.toNat
              then recordByte s.hb len (a - s.writeBase.toNat)
            else if a = 0x7FEA ∧ s.writeLeaf = .wrapRoom then 0x01 else s.store.read a)
        ∧ t.RES = true ∧ t.hb = s.hb ∧ t.M = s.M ∧ t.latched (.write len) ∧ s.sameInputs t)
    ∧ (s.writeLeaf = .wrapFull →
      ∃ t : State, exec (.write len) s = .next t
        ∧ (∀ a, t.store.read a =
            if a = 0x7FE4 ∨ a = 0x7FE5 then 0x00 else if a = 0x7FEA then 0x01 else s.store.read a)
        ∧ t.RES = false ∧ t.hb = s.hb ∧ t.M = s.M ∧ t.I = s.I ∧ t.latched (.write len) ∧ s.sameInputs t)
    ∧ (s.writeLeaf = .lappedFull →
      ∃ t : State, exec (.write len) s = .next t ∧ t.store = s.store
        ∧ t.RES = false ∧ t.hb = s.hb ∧ t.M = s.M ∧ t.I = s.I ∧ t.latched (.write len) ∧ s.sameInputs t)

/-- 42_write R154, 60_exceptions R215: a WRITE whose page reaches past the store stops with StoreRange at the first
address at or above C: the page's bytes below C are written, the wrap commit stands, head is not advanced, no response is
issued. That every later step until a reset is the same fault is the model's choice (log 10). -/
def Obligations.WritePastTheStoreFaults : Prop :=
  ∀ (len : Half) (s : State), s.writeLeaf.result = true → ¬ fits s.writeBase s.pageSize →
    ∃ l : State, exec (.write len) s = .fault (.storeRange (max s.writeBase.toNat Config.capacity) l)
      ∧ l.faultRec = some (max s.writeBase.toNat Config.capacity)
      ∧ (∀ a, l.store.read a =
          if s.writeBase.toNat ≤ a ∧ a < Config.capacity then recordByte s.hb len (a - s.writeBase.toNat)
          else if s.writeLeaf = .wrapRoom ∧ (a = 0x7FE4 ∨ a = 0x7FE5) then 0x00
          else if s.writeLeaf = .wrapRoom ∧ a = 0x7FEA then 0x01 else s.store.read a)
      ∧ l.hb = s.hb ∧ (∀ e ∈ l.log, e.kind ≠ .respond)
      ∧ (l.rst = false → step l = .fault (.storeRange (max s.writeBase.toNat Config.capacity) l))

/-! ### READ -/

/-- 43_read R171: the events of each leaf, in order, with the response, from every state of the leaf whose page is inside
the store (R174 is the other case); the working registers H, T, P and F are those of the pseudocode. -/
def Obligations.ReadFollowsItsLeaf : Prop :=
  ∀ s : State,
    (s.flip = 0 → s.tail.toNat < s.head.toNat → fits s.tail s.pageSize →
      ∃ t : State, exec .read s = .next t
        ∧ t.log.reverse = fetchEvents s.store ++ getEvents s.store s.tail.toNat s.pageSize.toNat
            ++ commitTailEvents (s.tail.toNat + s.pageSize.toNat) ++ [Event.respond 0x01]
        ∧ t.responded 0x01 ∧ t.H = s.head ∧ t.T = s.tail ∧ t.P = s.pageSize ∧ t.F = s.flip)
    ∧ (s.flip = 0 → ¬ s.tail.toNat < s.head.toNat →
      ∃ t : State, exec .read s = .next t
        ∧ t.log.reverse = fetchEvents s.store ++ [Event.respond 0x00]
        ∧ t.responded 0x00 ∧ t.H = s.head ∧ t.T = s.tail ∧ t.P = s.pageSize ∧ t.F = s.flip)
    ∧ (s.flip ≠ 0 → 0x7FE0 < s.tail.toNat + s.pageSize.toNat → 0 < s.head.toNat → fits 0 s.pageSize →
      ∃ t : State, exec .read s = .next t
        ∧ t.log.reverse = fetchEvents s.store ++ wrapTailEvents
            ++ getEvents (((s.store.write 0x7FE6 0x00).write 0x7FE7 0x00).write 0x7FEA 0x00) 0 s.pageSize.toNat
            ++ commitTailEvents s.pageSize.toNat ++ [Event.respond 0x01]
        ∧ t.responded 0x01 ∧ t.H = s.head ∧ t.T = 0 ∧ t.P = s.pageSize ∧ t.F = 0x00)
    ∧ (s.flip ≠ 0 → 0x7FE0 < s.tail.toNat + s.pageSize.toNat → s.head.toNat = 0 →
      ∃ t : State, exec .read s = .next t
        ∧ t.log.reverse = fetchEvents s.store ++ wrapTailEvents ++ [Event.respond 0x00]
        ∧ t.responded 0x00 ∧ t.H = s.head ∧ t.T = 0 ∧ t.P = s.pageSize ∧ t.F = 0x00)
    ∧ (s.flip ≠ 0 → s.tail.toNat + s.pageSize.toNat ≤ 0x7FE0 →
      ∃ t : State, exec .read s = .next t
        ∧ t.log.reverse = fetchEvents s.store ++ getEvents s.store s.tail.toNat s.pageSize.toNat
            ++ commitTailEvents (s.tail.toNat + s.pageSize.toNat) ++ [Event.respond 0x01]
        ∧ t.responded 0x01 ∧ t.H = s.head ∧ t.T = s.tail ∧ t.P = s.pageSize ∧ t.F = s.flip)

/-- 43_read R172, R173 and 20_memory R64: what a READ leaves: a successful one writes exactly HB[0..P-1] with the page's
bytes and advances tail; a failing one never writes HB; no other store byte changes but the wrap commit's; the registers
READ does not load are unchanged. -/
def Obligations.ReadResultAndFrame : Prop :=
  ∀ s : State,
    (s.readLeaf.result = true → fits s.readBase s.pageSize →
      ∃ t : State, exec .read s = .next t
        ∧ (∀ j, t.hb.read j =
            if j < s.pageSize.toNat then s.readStore.read (s.readBase.toNat + j) else s.hb.read j)
        ∧ (∀ a, t.store.read a =
            if a = 0x7FE6 then BitVec.ofNat 8 (s.readBase.toNat + s.pageSize.toNat)
            else if a = 0x7FE7 then BitVec.ofNat 8 ((s.readBase.toNat + s.pageSize.toNat) / 256)
            else if a = 0x7FEA ∧ s.readLeaf = .wrapData then 0x00 else s.store.read a)
        ∧ t.RES = true ∧ t.M = s.M ∧ t.latched .read ∧ s.sameInputs t)
    ∧ (s.readLeaf = .wrapEmpty →
      ∃ t : State, exec .read s = .next t
        ∧ (∀ a, t.store.read a =
            if a = 0x7FE6 ∨ a = 0x7FE7 ∨ a = 0x7FEA then 0x00 else s.store.read a)
        ∧ t.RES = false ∧ t.hb = s.hb ∧ t.M = s.M ∧ t.I = s.I ∧ t.latched .read ∧ s.sameInputs t)
    ∧ (s.readLeaf = .linearEmpty →
      ∃ t : State, exec .read s = .next t ∧ t.store = s.store
        ∧ t.RES = false ∧ t.hb = s.hb ∧ t.M = s.M ∧ t.I = s.I ∧ t.latched .read ∧ s.sameInputs t)

/-- 43_read R174, 60_exceptions R215: a READ whose page reaches past the store stops with StoreRange at the first address
at or above C: HB holds the bytes below it, the wrap commit stands, tail is not advanced, no response is issued. That every
later step until a reset is the same fault is the model's choice (log 10). -/
def Obligations.ReadPastTheStoreFaults : Prop :=
  ∀ s : State, s.readLeaf.result = true → ¬ fits s.readBase s.pageSize →
    ∃ l : State, exec .read s = .fault (.storeRange (max s.readBase.toNat Config.capacity) l)
      ∧ l.faultRec = some (max s.readBase.toNat Config.capacity) ∧ l.store = s.readStore
      ∧ (∀ j, l.hb.read j =
          if s.readBase.toNat + j < Config.capacity then s.readStore.read (s.readBase.toNat + j) else s.hb.read j)
      ∧ (∀ e ∈ l.log, e.kind ≠ .respond)
      ∧ (l.rst = false → step l = .fault (.storeRange (max s.readBase.toNat Config.capacity) l))

/-! ### Queries -/

/-- 44_queries R191 with 40_engine R115: the word is exactly 0x00000004, and another word with this OP is illegal;
IS_FULL completes from every state with the seven reads and the response; its RESULT is R115's formula, written out. -/
def Obligations.IsFullAnswers : Prop :=
  (∀ w : Word, w.toNat % 16 = 4 →
      (decode w = .ok .isFull ↔ w = 0x00000004) ∧ (w ≠ 0x00000004 → ∃ r, decode w = .error r))
    ∧ ∀ s : State, ∃ t : State, exec .isFull s = .next t
    ∧ t.log.reverse = fetchEvents s.store ++ [Event.respond t.rspWord]
    ∧ t.responded (if (if s.flip = 0
        then 0x7FE0 < s.head.toNat + s.pageSize.toNat ∧ ¬ s.pageSize.toNat < s.tail.toNat
        else ¬ s.head.toNat < s.tail.toNat) then 0x01 else 0x00)
    ∧ t.H = s.head ∧ t.T = s.tail ∧ t.P = s.pageSize ∧ t.F = s.flip ∧ t.store = s.store ∧ t.hb = s.hb
    ∧ t.M = s.M ∧ t.I = s.I ∧ t.latched .isFull ∧ s.sameInputs t

/-- 44_queries R193 with 40_engine R116: the word is exactly 0x00000005, and another word with this OP is illegal;
CONTAINS_DATA completes from every state with the seven reads and the response; its RESULT is R116's formula, written out. -/
def Obligations.ContainsDataAnswers : Prop :=
  (∀ w : Word, w.toNat % 16 = 5 →
      (decode w = .ok .containsData ↔ w = 0x00000005) ∧ (w ≠ 0x00000005 → ∃ r, decode w = .error r))
    ∧ ∀ s : State, ∃ t : State, exec .containsData s = .next t
    ∧ t.log.reverse = fetchEvents s.store ++ [Event.respond t.rspWord]
    ∧ t.responded (if (if s.flip = 0 then s.tail.toNat < s.head.toNat
        else 0x7FE0 < s.tail.toNat + s.pageSize.toNat → s.head.toNat ≠ 0) then 0x01 else 0x00)
    ∧ t.H = s.head ∧ t.T = s.tail ∧ t.P = s.pageSize ∧ t.F = s.flip ∧ t.store = s.store ∧ t.hb = s.hb
    ∧ t.M = s.M ∧ t.I = s.I ∧ t.latched .containsData ∧ s.sameInputs t

/-- 44_queries R196: the word is exactly 0x00000006, and another word with this OP is illegal; IS_INITIALIZED completes
from every state with the four reads of magic in order and the response; its RESULT says whether the four bytes,
little-endian, are MAGIC. -/
def Obligations.IsInitializedAnswers : Prop :=
  (∀ w : Word, w.toNat % 16 = 6 →
      (decode w = .ok .isInitialized ↔ w = 0x00000006) ∧ (w ≠ 0x00000006 → ∃ r, decode w = .error r))
    ∧ ∀ s : State, ∃ t : State, exec .isInitialized s = .next t
    ∧ t.log.reverse = [.storeRead 0x7FE0 (s.store.read 0x7FE0), .storeRead 0x7FE1 (s.store.read 0x7FE1),
        .storeRead 0x7FE2 (s.store.read 0x7FE2), .storeRead 0x7FE3 (s.store.read 0x7FE3), .respond t.rspWord]
    ∧ t.responded (if (s.store.read 0x7FE0).toNat + 256 * (s.store.read 0x7FE1).toNat
          + 65536 * (s.store.read 0x7FE2).toNat + 16777216 * (s.store.read 0x7FE3).toNat = Config.magic.toNat
        then 0x01 else 0x00)
    ∧ t.M = s.magic ∧ t.store = s.store ∧ t.hb = s.hb
    ∧ t.H = s.H ∧ t.T = s.T ∧ t.P = s.P ∧ t.F = s.F ∧ t.I = s.I ∧ t.latched .isInitialized ∧ s.sameInputs t

/-- 44_queries R190: a query issues store reads only, changes no persisted byte and no HB byte, leaves no engine state a
later command reads, and asked again answers the same. -/
def Obligations.QueriesMutateNothing : Prop :=
  ∀ (q : Instr) (s t : State), q ∈ [.isFull, .containsData, .isInitialized] → exec q s = .next t →
    (∀ e ∈ t.log, e.kind = .storeRead ∨ e.kind = .respond) ∧ t.store = s.store ∧ t.hb = s.hb
      ∧ (∃ u : State, exec q t = .next u ∧ u.rspWord = t.rspWord)
      ∧ (∀ i v, exec i s = .next v → ∃ u : State, exec i t = .next u ∧ u.store = v.store ∧ u.hb = v.hb ∧ u.log = v.log)

/-- 44_queries R192, R194: a query asked just before WRITE or READ foretells its RESULT. -/
def Obligations.QueriesForetellResults : Prop :=
  (∀ (len : Half) (s t u : State), exec .isFull s = .next t → exec (.write len) t.takeResponse = .next u →
      u.RES = !t.RES)
    ∧ (∀ s t u : State, exec .containsData s = .next t → exec .read t.takeResponse = .next u → u.RES = t.RES)

/-! ### Pointer arithmetic, classifiers, codec -/

/-- 40_engine R113: WriteCase, leaf by leaf, on exact sums. -/
def Obligations.WriteCaseLeaves : Prop :=
  ∀ (H T P : Half) (F : Byte),
    writeCase H T P F =
      if F.toNat = 0 then
        (if H.toNat + P.toNat > 32736 then (if P.toNat < T.toNat then .wrapRoom else .wrapFull) else .linear)
      else (if H.toNat < T.toNat then .lappedRoom else .lappedFull)

/-- 40_engine R114: ReadCase, leaf by leaf, on exact sums. -/
def Obligations.ReadCaseLeaves : Prop :=
  ∀ (H T P : Half) (F : Byte),
    readCase H T P F =
      if F.toNat = 0 then (if T.toNat < H.toNat then .linearData else .linearEmpty)
      else (if T.toNat + P.toNat > 32736 then (if 0 < H.toNat then .wrapData else .wrapEmpty) else .lappedData)

/-- 40_engine R110, R111: the 17-bit sums are exact, and a stored pointer is the sum modulo 2^16. -/
def Obligations.PointerSumsAreExact : Prop :=
  ∀ a b : Half, (paeSum a b).toNat = a.toNat + b.toNat
    ∧ (storedPointer (paeSum a b)).toNat = (a.toNat + b.toNat) % 65536

/-- 20_memory R55: every multi-byte field is little-endian, the least significant byte at the lowest address; the codec,
both ways. -/
def Obligations.CodecIsLittleEndian : Prop :=
  (∀ v : Half, encodeU16 v = [BitVec.ofNat 8 v.toNat, BitVec.ofNat 8 (v.toNat / 256)])
    ∧ (∀ b0 b1 : Byte, (decodeU16 b0 b1).toNat = b0.toNat + 256 * b1.toNat)
    ∧ (∀ v : Word, encodeU32 v = [BitVec.ofNat 8 v.toNat, BitVec.ofNat 8 (v.toNat / 256),
        BitVec.ofNat 8 (v.toNat / 65536), BitVec.ofNat 8 (v.toNat / 16777216)])
    ∧ (∀ b0 b1 b2 b3 : Byte, (decodeU32 b0 b1 b2 b3).toNat
        = b0.toNat + 256 * b1.toNat + 65536 * b2.toNat + 16777216 * b3.toNat)
    ∧ (∀ s : State, s.head.toNat = (s.store.read 0x7FE4).toNat + 256 * (s.store.read 0x7FE5).toNat
        ∧ s.tail.toNat = (s.store.read 0x7FE6).toNat + 256 * (s.store.read 0x7FE7).toNat
        ∧ s.pageSize.toNat = (s.store.read 0x7FE8).toNat + 256 * (s.store.read 0x7FE9).toNat
        ∧ s.magic.toNat = (s.store.read 0x7FE0).toNat + 256 * (s.store.read 0x7FE1).toNat
            + 65536 * (s.store.read 0x7FE2).toNat + 16777216 * (s.store.read 0x7FE3).toNat)

/-! ### Whole transactions -/

/-- 40_engine R130: the event counts of each path of a command that completes, and the one response that ends it (the
path of an illegal word is IllegalWordsAreRefused). -/
def Obligations.EventCountsOfEachPath : Prop :=
  (∀ (i : Instr) (s t : State), exec i s = .next t → t.count .respond = 1)
    ∧ (∀ s t : State, exec (.format 0) s = .next t →
        t.count .storeRead = 0 ∧ t.count .storeWrite = 0 ∧ t.count .hbRead = 0 ∧ t.count .hbWrite = 0)
    ∧ (∀ (s t : State) (q : Instr), q ∈ [.isFull, .containsData, .isInitialized] → exec q s = .next t →
        t.count .storeRead = (if q = .isInitialized then 4 else 7) ∧ t.count .storeWrite = 0
          ∧ t.count .hbRead = 0 ∧ t.count .hbWrite = 0)
    ∧ (∀ (p : Half) (s t : State), p ≠ 0 → exec (.format p) s = .next t →
      t.count .storeRead = 0 ∧ t.count .storeWrite = 11 ∧ t.count .hbRead = 0 ∧ t.count .hbWrite = 0)
    ∧ (∀ (len : Half) (s t : State), exec (.write len) s = .next t →
        t.count .storeRead = 7 ∧ t.count .hbWrite = 0
          ∧ t.count .storeWrite = (match s.writeLeaf with
              | .linear => s.pageSize.toNat + 2
              | .lappedRoom => s.pageSize.toNat + 2
              | .wrapRoom => 3 + s.pageSize.toNat + 2
              | .wrapFull => 3
              | .lappedFull => 0)
          ∧ t.count .hbRead = if s.writeLeaf.result then min len.toNat s.pageSize.toNat else 0)
    ∧ (∀ s t : State, exec .read s = .next t →
        t.count .hbRead = 0
          ∧ t.count .storeRead = (if s.readLeaf.result then 7 + s.pageSize.toNat else 7)
          ∧ t.count .hbWrite = (if s.readLeaf.result then s.pageSize.toNat else 0)
          ∧ t.count .storeWrite = (match s.readLeaf with
              | .linearData => 2
              | .lappedData => 2
              | .wrapData => 3 + 2
              | .wrapEmpty => 3
              | .linearEmpty => 0))

/-! ### The well-formed state (40_engine section 4) -/

/-- 40_engine R121: from a well-formed state every command completes, with no StoreRange fault, and leaves a well-formed
state; FORMAT of a page size other than 0 makes any state well-formed, with an empty queue. -/
def Obligations.InvIsKeptAndNothingFaults : Prop :=
  (∀ (i : Instr) (s : State), s.inv → ∃ t : State, exec i s = .next t ∧ t.inv)
    ∧ (∀ (p : Half) (s : State), p ≠ 0 → ∃ t : State, exec (.format p) s = .next t ∧ t.inv ∧ t.queue = [])

/-- 40_engine R121, 10_state R21, R24, R26, R27: from a well-formed state no command writes the unused metadata bytes, no
command but FORMAT writes magic or pageSize, and no command but WRITE writes a data byte. -/
def Obligations.InvProtectsTheMetadata : Prop :=
  ∀ (i : Instr) (s t : State), s.inv → exec i s = .next t →
    (∀ a, 0x7FEB ≤ a → t.store.read a = s.store.read a)
      ∧ ((∀ p, i ≠ .format p) →
          ∀ a, (0x7FE0 ≤ a ∧ a < 0x7FE4) ∨ a = 0x7FE8 ∨ a = 0x7FE9 → t.store.read a = s.store.read a)
      ∧ ((∀ len, i ≠ .write len) → ∀ a, a < 0x7FE0 → t.store.read a = s.store.read a)

/-- 40_engine R123: from a well-formed state a successful WRITE appends the record, truncated or padded to pageSize, to
the logical queue, and a failing one leaves the queue as it was. -/
def Obligations.WriteAppendsToTheQueue : Prop :=
  ∀ (len : Half) (s t : State), s.inv → exec (.write len) s = .next t →
    t.records = if t.RES then s.records ++ [s.newRecord len] else s.records

/-- 40_engine R123: from a well-formed state a successful READ removes the oldest record and returns it in HB; a failing
one happens exactly on an empty queue and returns nothing. -/
def Obligations.ReadRemovesTheOldestRecord : Prop :=
  ∀ s t : State, s.inv → exec .read s = .next t →
    (t.RES = true → ∃ r rest, s.records = r :: rest ∧ t.records = rest ∧ bytesAt t.hb 0 s.pageSize.toNat = r
        ∧ ∀ j, s.pageSize.toNat ≤ j → t.hb.read j = s.hb.read j)
      ∧ (t.RES = false → s.records = [] ∧ t.records = [] ∧ t.hb = s.hb)

/-- 40_engine R124: from a well-formed state CONTAINS_DATA says whether a page is stored, and IS_FULL whether CAP pages
are, with the one exception of the spurious full state. -/
def Obligations.QueriesCountPages : Prop :=
  (∀ s t : State, s.inv → exec .containsData s = .next t → (t.RES = true ↔ 0 < s.pageCount))
    ∧ (∀ s t : State, s.inv → exec .isFull s = .next t →
        (t.RES = true ↔ s.pageCount = cap s.pageSize.toNat
          ∨ (s.flip = 0 ∧ s.tail = s.pageSize ∧ s.head.toNat = cap s.pageSize.toNat * s.pageSize.toNat)))

/-- 40_engine R124, 42_write R155: the spurious full state: the WRITE fails although only CAP - 1 pages are stored,
commits the wrap to (0, P, P, 0x01) with the same page count, and the next WRITE succeeds. -/
def Obligations.SpuriousFullRetrySucceeds : Prop :=
  ∀ (len len' : Half) (s : State), s.inv → s.flip = 0 → s.tail = s.pageSize →
    s.head.toNat = cap s.pageSize.toNat * s.pageSize.toNat → 1 ≤ cap s.pageSize.toNat →
    s.pageCount = cap s.pageSize.toNat - 1
      ∧ ∃ t : State, exec (.write len) s = .next t ∧ t.RES = false ∧ t.head = 0 ∧ t.tail = s.pageSize ∧ t.pageSize = s.pageSize
        ∧ t.flip = 0x01 ∧ t.pageCount = s.pageCount
        ∧ ∃ u : State, exec (.write len') t.takeResponse = .next u ∧ u.RES = true

/-- 40_engine R125: under the invariant head = tail means empty when flipMarker is 0 and full when it is not. -/
def Obligations.EqualPointersReading : Prop :=
  ∀ s : State, s.inv → s.head = s.tail →
    (s.flip = 0 → s.pageCount = 0) ∧ (s.flip ≠ 0 → s.pageCount = cap s.pageSize.toNat)

/-- 40_engine R126: with a page size above MS, every WRITE and every READ answers 0 and moves no data byte; a WRITE
leaves flipMarker 0x01 and a READ leaves it 0x00. -/
def Obligations.CapacityZeroMovesNothing : Prop :=
  ∀ (len : Half) (s : State), s.inv → 0x7FE0 < s.pageSize.toNat →
    (∃ t : State, exec (.write len) s = .next t ∧ t.RES = false ∧ t.flip = 0x01 ∧ t.head = 0 ∧ t.tail = 0 ∧ t.hb = s.hb
        ∧ ∀ a, a < 0x7FE0 → t.store.read a = s.store.read a)
      ∧ (∃ t : State, exec .read s = .next t ∧ t.RES = false ∧ t.flip = 0x00 ∧ t.head = 0 ∧ t.tail = 0 ∧ t.hb = s.hb
        ∧ ∀ a, a < 0x7FE0 → t.store.read a = s.store.read a)

/-- 70_reset R244, the window the source names: a cut just after the complete wrap commit of a WRITE leaves (0, T, P, 0x01),
well-formed, with the same pages stored; just after a READ's it leaves (H, 0, P, 0x00), likewise. -/
def Obligations.CutAfterWrapCommitKeepsRecords : Prop :=
  (∀ (len : Half) (s : State), s.inv → (s.writeLeaf = .wrapRoom ∨ s.writeLeaf = .wrapFull) →
      ∃ t : State, State.events 10 (s.begin (encode (.write len))) = .next t ∧ t.head = 0 ∧ t.tail = s.tail
        ∧ t.pageSize = s.pageSize ∧ t.flip = 0x01 ∧ t.inv ∧ t.pageCount = s.pageCount ∧ t.records = s.records)
    ∧ (∀ s : State, s.inv → (s.readLeaf = .wrapData ∨ s.readLeaf = .wrapEmpty) →
      ∃ t : State, State.events 10 (s.begin (encode .read)) = .next t ∧ t.head = s.head ∧ t.tail = 0
        ∧ t.pageSize = s.pageSize ∧ t.flip = 0x00 ∧ t.inv ∧ t.pageCount = s.pageCount ∧ t.records = s.records)

/-! ### The agents around the engine -/

/-- 70_reset R250, R252: another agent may write a store byte between commands and not during one; the write changes that
byte only, and the next command's fetch, of every field and of magic, uses it without a check. That an access during a
command is no move is the model's reading of the contract (log 17). -/
def Obligations.StoreIsSharedBetweenCommands : Prop :=
  ∀ (s : State) (a : Nat) (v : Byte), a < Config.capacity →
    (∀ k, s.seq = .busy k → s.externalWrite a v = none)
      ∧ (s.betweenCommands = true → ∃ u : State, s.externalWrite a v = some u
        ∧ (∀ b, u.store.read b = if b = a then v else s.store.read b) ∧ u.hb = s.hb ∧ u.seq = s.seq
        ∧ (∀ (len : Half) (i : Instr), i ∈ [.write len, .read, .isFull, .containsData] →
          ∃ t : State, State.events 7 (u.begin (encode i)) = .next t
            ∧ t.H.toNat = (if a = 0x7FE4 then v else s.store.read 0x7FE4).toNat
                + 256 * (if a = 0x7FE5 then v else s.store.read 0x7FE5).toNat
            ∧ t.T.toNat = (if a = 0x7FE6 then v else s.store.read 0x7FE6).toNat
                + 256 * (if a = 0x7FE7 then v else s.store.read 0x7FE7).toNat
            ∧ t.P.toNat = (if a = 0x7FE8 then v else s.store.read 0x7FE8).toNat
                + 256 * (if a = 0x7FE9 then v else s.store.read 0x7FE9).toNat
            ∧ t.F = if a = 0x7FEA then v else s.store.read 0x7FEA)
        ∧ ∃ t : State, exec .isInitialized u = .next t
            ∧ t.M.toNat = (if a = 0x7FE0 then v else s.store.read 0x7FE0).toNat
                + 256 * (if a = 0x7FE1 then v else s.store.read 0x7FE1).toNat
                + 65536 * (if a = 0x7FE2 then v else s.store.read 0x7FE2).toNat
                + 16777216 * (if a = 0x7FE3 then v else s.store.read 0x7FE3).toNat)

/-- 30_encoding R91, R95, R96: cmd_ready is 1 exactly in IDLE and rsp_valid exactly in RESP; while a transaction runs the
store port and the HB port show the access of the event the next step issues, never both. -/
def Obligations.PortsShowTheNextAccess : Prop :=
  (∀ s : State, (s.cmdReady = true ↔ s.seq = .idle) ∧ (s.rspValid = true ↔ s.seq = .resp)
      ∧ ¬ (s.storePort.req = true ∧ s.hbPort.req = true))
    ∧ ∀ (s t : State) (e : Event), s.wf → s.rst = false → (∃ k, s.seq = .busy k) → step s = .next t →
        t.log = e :: s.log →
        match e with
        | .storeRead a _ => s.storePort.req = true ∧ s.storePort.we = false ∧ s.storePort.addr.toNat = a
        | .storeWrite a v =>
          s.storePort.req = true ∧ s.storePort.we = true ∧ s.storePort.addr.toNat = a ∧ s.storePort.wdata = v
        | .hbRead i _ => s.hbPort.req = true ∧ s.hbPort.we = false ∧ s.hbPort.idx.toNat = i
        | .hbWrite i v => s.hbPort.req = true ∧ s.hbPort.we = true ∧ s.hbPort.idx.toNat = i ∧ s.hbPort.wdata = v
        | .respond _ => s.storePort.req = false ∧ s.hbPort.req = false

/-- 30_encoding R91, 40_engine R101: what a command does to the command port and to the model's own fields, however it
ends: the accepted word has left the port, and the granularity (log 5) and the responses already taken (log 27) are as
before. A step that accepts no word leaves a presented one waiting, a reset included. The word on the port is the model's
input field `cmd` (log 8), and a reset that leaves it there is its reading (log 11). -/
def Obligations.AcceptedWordLeavesThePort : Prop :=
  (∀ (i : Instr) (s t : State), exec i s = .next t ∨ (∃ a, exec i s = .fault (.storeRange a t)) →
      t.cmd = none ∧ t.byEvent = s.byEvent ∧ t.answered = s.answered)
    ∧ (∀ (w : Word) (s : State), (s.begin w).cmd = none ∧ (s.begin w).byEvent = s.byEvent
        ∧ (s.begin w).answered = s.answered ∧ (s.refuseWord w).cmd = none ∧ (s.refuseWord w).byEvent = s.byEvent
        ∧ (s.refuseWord w).answered = s.answered)
    ∧ ∀ s t : State, s.rst = true ∨ s.seq ≠ .idle → step s = .next t → t.cmd = s.cmd ∧ t.byEvent = s.byEvent

/-! ### Cuts (70_reset R242, R244) -/

/-- 00_scope R8, 70_reset R242: a reset or power loss falls between any two events. From every state that awaits a command
event by event, and the machine at first power-up over any store is one, the run in which the host presents a word, the
engine accepts it and issues n of its events, and the Environment then asserts reset, exists for every n that the
transaction reaches; it leaves exactly the writes of those n events, and no response. The model's own in it: stepping by events, its
granularity after reset (log 5), the input fields in `awaiting` (log 8: the accepted word has left the command port, and a
step in reset ends it), HB kept through a power loss (log 11), and the run's responses, which a reset empties (log 27). -/
def Obligations.CutFallsBetweenAnyTwoEvents : Prop :=
  (∀ store hb : Memory, (State.powerUp store hb).awaiting ∧ (State.powerUp store hb).byEvent = true)
    ∧ ∀ (w : Word) (n : Nat) (s t : State), s.awaiting → s.byEvent = true →
        State.events n (s.begin w) = .next t → t.seq = .busy n →
        ∃ u : State, s.run (cutAfter w (n + 1)) = some u ∧ t.log.length = n ∧ u.store = replay s.store t.log
          ∧ u.store = t.store ∧ u.hb = t.hb ∧ u.awaiting ∧ u.rspValid = false ∧ u.rspWord = 0x00 ∧ u.answered = []

/-- 70_reset R244, the row 'inside a data transfer, before the pointer advance': from a well-formed state, a cut after m
events of a WRITE's or a READ's data transfer leaves the pointers as they were (as the wrap commit left them, if there was
one), the state well-formed, the page count and the records as they were: a WRITE's partial page, whose bytes so far are in
unused space, is invisible, and a READ's record is unread, with the bytes so far in HB. -/
def Obligations.CutInsideATransferKeepsRecords : Prop :=
  (∀ (len : Half) (s : State) (m : Nat), s.inv → s.writeLeaf.result = true →
      m ≤ min len.toNat s.pageSize.toNat + s.pageSize.toNat →
      ∃ t : State, State.events ((if s.writeLeaf = .wrapRoom then 10 else 7) + m) (s.begin (encode (.write len))) = .next t
        ∧ t.head = s.writeBase ∧ t.tail = s.tail ∧ t.pageSize = s.pageSize
        ∧ t.flip = (if s.writeLeaf = .wrapRoom then 0x01 else s.flip) ∧ t.hb = s.hb
        ∧ (∀ a, a < 0x7FE0 → t.store.read a =
            if s.writeBase.toNat ≤ a ∧ a < s.writeBase.toNat + putDone (min len.toNat s.pageSize.toNat) m
              then recordByte s.hb len (a - s.writeBase.toNat) else s.store.read a)
        ∧ t.inv ∧ t.pageCount = s.pageCount ∧ t.records = s.records)
    ∧ (∀ (s : State) (m : Nat), s.inv → s.readLeaf.result = true → m ≤ 2 * s.pageSize.toNat →
      ∃ t : State, State.events ((if s.readLeaf = .wrapData then 10 else 7) + m) (s.begin (encode .read)) = .next t
        ∧ t.head = s.head ∧ t.tail = s.readBase ∧ t.pageSize = s.pageSize
        ∧ t.flip = (if s.readLeaf = .wrapData then 0x00 else s.flip)
        ∧ (∀ a, a < 0x7FE0 → t.store.read a = s.store.read a)
        ∧ (∀ j, t.hb.read j = if j < m / 2 then s.store.read (s.readBase.toNat + j) else s.hb.read j)
        ∧ t.inv ∧ t.pageCount = s.pageCount ∧ t.records = s.records)

/-- 70_reset R244, the rows of torn and half-done commits, and 20_memory R57: a cut in a query or in the metadata fetch
changes nothing; one between the two bytes of a pointer write leaves the new low byte and the old high byte; one between
the pointer of a wrap commit and its flag leaves the pointer 0 and the old flag. Inside a wrap commit every byte but the
pointer's written ones, and HB, are as before. -/
def Obligations.CutTearsThePointers : Prop :=
  (∀ (q : Instr) (n : Nat) (s t : State), q ∈ [.isFull, .containsData, .isInitialized] →
      State.events n (s.begin (encode q)) = .next t → t.store = s.store ∧ t.hb = s.hb)
    ∧ (∀ (len : Half) (i : Instr) (n : Nat) (s t : State), i ∈ [.write len, .read] → n ≤ 7 →
      State.events n (s.begin (encode i)) = .next t → t.store = s.store ∧ t.hb = s.hb)
    ∧ (∀ (len : Half) (s : State), s.writeLeaf = .wrapRoom ∨ s.writeLeaf = .wrapFull →
      ∃ t u : State, State.events 8 (s.begin (encode (.write len))) = .next t
        ∧ t.head.toNat = s.head.toNat / 256 * 256 ∧ t.tail = s.tail ∧ t.pageSize = s.pageSize ∧ t.flip = s.flip
        ∧ (∀ a, a ≠ 0x7FE4 → t.store.read a = s.store.read a) ∧ t.hb = s.hb
        ∧ State.events 9 (s.begin (encode (.write len))) = .next u
        ∧ u.head = 0 ∧ u.tail = s.tail ∧ u.pageSize = s.pageSize ∧ u.flip = s.flip
        ∧ (∀ a, a ≠ 0x7FE4 → a ≠ 0x7FE5 → u.store.read a = s.store.read a) ∧ u.hb = s.hb)
    ∧ (∀ s : State, s.readLeaf = .wrapData ∨ s.readLeaf = .wrapEmpty →
      ∃ t u : State, State.events 8 (s.begin (encode .read)) = .next t
        ∧ t.tail.toNat = s.tail.toNat / 256 * 256 ∧ t.head = s.head ∧ t.pageSize = s.pageSize ∧ t.flip = s.flip
        ∧ (∀ a, a ≠ 0x7FE6 → t.store.read a = s.store.read a) ∧ t.hb = s.hb
        ∧ State.events 9 (s.begin (encode .read)) = .next u
        ∧ u.tail = 0 ∧ u.head = s.head ∧ u.pageSize = s.pageSize ∧ u.flip = s.flip
        ∧ (∀ a, a ≠ 0x7FE6 → a ≠ 0x7FE7 → u.store.read a = s.store.read a) ∧ u.hb = s.hb)
    ∧ (∀ (len : Half) (s : State), s.inv → s.writeLeaf.result = true →
      ∃ t : State, State.events ((if s.writeLeaf = .wrapRoom then 10 else 7)
            + (min len.toNat s.pageSize.toNat + s.pageSize.toNat) + 1) (s.begin (encode (.write len))) = .next t
        ∧ t.head.toNat = s.writeBase.toNat / 256 * 256 + (s.writeBase.toNat + s.pageSize.toNat) % 256
        ∧ t.tail = s.tail ∧ t.pageSize = s.pageSize
        ∧ t.flip = if s.writeLeaf = .wrapRoom then 0x01 else s.flip)
    ∧ (∀ s : State, s.inv → s.readLeaf.result = true →
      ∃ t : State, State.events ((if s.readLeaf = .wrapData then 10 else 7) + 2 * s.pageSize.toNat + 1)
            (s.begin (encode .read)) = .next t
        ∧ t.tail.toNat = s.readBase.toNat / 256 * 256 + (s.readBase.toNat + s.pageSize.toNat) % 256
        ∧ t.head = s.head ∧ t.pageSize = s.pageSize
        ∧ t.flip = if s.readLeaf = .wrapData then 0x00 else s.flip)

/-! ### Runs and their end (70_reset R262) -/

/-- 70_reset R262, R240: the sequence of responses of a run: a step adds one exactly when the host takes it, with the word it
answers; a reset starts a new run, with none; no other step and no move changes the sequence. A program has not ended while
a word waits, a transaction runs, a response is not taken or a fault is recorded, nor right after a reset. The sequence is a
field of the model's (log 27). -/
def Obligations.ResponsesOfARun : Prop :=
  (∀ s t : State, step s = .next t → t.answered =
      if s.rst = true then []
      else if s.seq = .resp ∧ s.rspReady = true then s.answered ++ [(s.command, s.rspWord)] else s.answered)
    ∧ (∀ (s t : State) (m : Move), s.move m = some t → t.answered = s.answered)
    ∧ (∀ (s : State) (program : List Word), s.ended program →
        s.cmd = none ∧ s.faultRec = none ∧ s.cmdReady = true ∧ s.rspValid = false
          ∧ s.endState.responses.length = program.length ∧ 0 < s.endState.responses.length)
    ∧ (∀ (s t : State) (program : List Word), s.rst = true → step s = .next t → ¬ t.ended program)

/-- 30_encoding R91, 40_engine R100, R103, 70_reset R262: a command presented to an engine that awaits one, at either
granularity (log 5), is accepted, run and answered, and the engine awaits the next: a legal word that completes with what
exec answers, an illegal one with ERR_OPCODE. -/
def Obligations.EachCommandIsAnswered : Prop :=
  (∀ (w : Word) (i : Instr) (s u : State), s.awaiting → decode w = .ok i → exec i s = .next u →
      ∃ (n : Nat) (t : State), n ≤ 131085 ∧ s.run (serve w n) = some t ∧ t.awaiting ∧ t.store = u.store ∧ t.hb = u.hb
        ∧ t.answered = s.answered ++ [(w, u.rspWord)])
    ∧ (∀ (w : Word) (s : State), s.awaiting → (¬ ∃ i, decode w = .ok i) →
      ∃ (n : Nat) (t : State), n ≤ 131085 ∧ s.run (serve w n) = some t ∧ t.awaiting ∧ t.store = s.store ∧ t.hb = s.hb
        ∧ t.answered = s.answered ++ [(w, 0x02)])

/-- 70_reset R262, 40_engine R121: from a well-formed store every host program, whatever its words, runs to its end at
either granularity (log 5): the last response is taken, no fault is recorded, there is one response for each word, and the
store is well-formed. -/
def Obligations.ProgramRunsToItsEnd : Prop :=
  ∀ (program : List Word) (s : State), program ≠ [] → s.inv → s.awaiting → s.answered = [] →
    ∃ (steps : List Nat) (t : State), steps.length = program.length
      ∧ s.run ((program.zip steps).flatMap fun c => serve c.1 c.2) = some t ∧ t.ended program ∧ t.inv
      ∧ t.endState.responses.length = program.length
      ∧ ∀ r ∈ t.endState.responses, r ∈ [(0x00 : Byte), 0x01, 0x02, 0x04]
end

