-- ==== Sys2Proof/Laws/Decode.lean ====
section
/-! SUPPORT. The fields of a command word built by concatenation, and a word as the concatenation of its fields. -/

namespace Sys2Proof

theorem word_toNat (a : Half) (r : BitVec 12) (o : BitVec 4) :
    (a ++ r ++ o : Word).toNat = a.toNat * 65536 + r.toNat * 16 + o.toNat := by
  have ho := o.isLt
  have hr := r.isLt
  rw [BitVec.toNat_append, BitVec.toNat_append, Nat.shiftLeft_eq, Nat.shiftLeft_eq, Nat.mul_comm,
    ← Nat.two_pow_add_eq_or_of_lt (i := 4) ho, Nat.mul_comm a.toNat, ← Nat.two_pow_add_eq_or_of_lt (i := 12) hr]
  omega

theorem opField_toNat (w : Word) : (opField w).toNat = w.toNat % 16 := by
  simp [opField, BitVec.extractLsb'_toNat]

theorem rsvField_toNat (w : Word) : (rsvField w).toNat = w.toNat / 16 % 4096 := by
  simp [rsvField, BitVec.extractLsb'_toNat, Nat.shiftRight_eq_div_pow]

theorem argField_toNat (w : Word) : (argField w).toNat = w.toNat / 65536 := by
  have := w.isLt
  simp [argField, BitVec.extractLsb'_toNat, Nat.shiftRight_eq_div_pow]; omega

@[simp] theorem opField_word (a : Half) (r : BitVec 12) (o : BitVec 4) : opField (a ++ r ++ o : Word) = o := by
  apply BitVec.eq_of_toNat_eq
  have := o.isLt
  rw [opField_toNat, word_toNat]; omega

@[simp] theorem rsvField_word (a : Half) (r : BitVec 12) (o : BitVec 4) : rsvField (a ++ r ++ o : Word) = r := by
  apply BitVec.eq_of_toNat_eq
  have := o.isLt; have := r.isLt
  rw [rsvField_toNat, word_toNat]; omega

@[simp] theorem argField_word (a : Half) (r : BitVec 12) (o : BitVec 4) : argField (a ++ r ++ o : Word) = a := by
  apply BitVec.eq_of_toNat_eq
  have := o.isLt; have := r.isLt
  rw [argField_toNat, word_toNat]; omega

/-- A word is the concatenation of its three fields (30_encoding R81). -/
theorem word_eq_fields (w : Word) : argField w ++ rsvField w ++ opField w = w := by
  apply BitVec.eq_of_toNat_eq
  rw [word_toNat, opField_toNat, rsvField_toNat, argField_toNat]; omega

@[simp] theorem opField_encode (i : Instr) : opField (encode i) = i.opcode := opField_word _ _ _

@[simp] theorem rsvField_encode (i : Instr) : rsvField (encode i) = 0 := rsvField_word _ _ _

@[simp] theorem argField_encode (i : Instr) : argField (encode i) = i.arg := argField_word _ _ _

end Sys2Proof
end

