-- ==== Sys2Proof/Laws/State.lean ====
section
/-! SUPPORT. What each basic update of the state does to each field: one lemma per field per update, true by rfl. -/

namespace Sys2Proof.Machine

@[simp] theorem andThen_next (s : State) (f : State → Result) : andThen (.next s) f = f s := rfl

@[simp] theorem andThen_fault (e : Fault) (f : State → Result) : andThen (.fault e) f = .fault e := rfl

@[simp] theorem andThen_refused (e : Refusal) (f : State → Result) : andThen (.refused e) f = .refused e := rfl

@[simp] theorem State.issue_store (s : State) (e : Event) : (s.issue e).store = s.store := rfl
@[simp] theorem State.issue_hb (s : State) (e : Event) : (s.issue e).hb = s.hb := rfl
@[simp] theorem State.issue_H (s : State) (e : Event) : (s.issue e).H = s.H := rfl
@[simp] theorem State.issue_T (s : State) (e : Event) : (s.issue e).T = s.T := rfl
@[simp] theorem State.issue_P (s : State) (e : Event) : (s.issue e).P = s.P := rfl
@[simp] theorem State.issue_F (s : State) (e : Event) : (s.issue e).F = s.F := rfl
@[simp] theorem State.issue_M (s : State) (e : Event) : (s.issue e).M = s.M := rfl
@[simp] theorem State.issue_OP (s : State) (e : Event) : (s.issue e).OP = s.OP := rfl
@[simp] theorem State.issue_RSV (s : State) (e : Event) : (s.issue e).RSV = s.RSV := rfl
@[simp] theorem State.issue_ARG (s : State) (e : Event) : (s.issue e).ARG = s.ARG := rfl
@[simp] theorem State.issue_I (s : State) (e : Event) : (s.issue e).I = s.I := rfl
@[simp] theorem State.issue_RES (s : State) (e : Event) : (s.issue e).RES = s.RES := rfl
@[simp] theorem State.issue_seq (s : State) (e : Event) : (s.issue e).seq = s.seq.bump := rfl
@[simp] theorem State.issue_point (s : State) (e : Event) : (s.issue e).point = s.point := rfl
@[simp] theorem State.issue_rspWord (s : State) (e : Event) : (s.issue e).rspWord = s.rspWord := rfl
@[simp] theorem State.issue_faultRec (s : State) (e : Event) : (s.issue e).faultRec = s.faultRec := rfl
@[simp] theorem State.issue_cmd (s : State) (e : Event) : (s.issue e).cmd = s.cmd := rfl
@[simp] theorem State.issue_rspReady (s : State) (e : Event) : (s.issue e).rspReady = s.rspReady := rfl
@[simp] theorem State.issue_rst (s : State) (e : Event) : (s.issue e).rst = s.rst := rfl
@[simp] theorem State.issue_byEvent (s : State) (e : Event) : (s.issue e).byEvent = s.byEvent := rfl
@[simp] theorem State.issue_answered (s : State) (e : Event) : (s.issue e).answered = s.answered := rfl
@[simp] theorem State.issue_log (s : State) (e : Event) : (s.issue e).log = e :: s.log := rfl

@[simp] theorem State.setH_store (s : State) (v : Half) : (s.setH v).store = s.store := rfl
@[simp] theorem State.setH_hb (s : State) (v : Half) : (s.setH v).hb = s.hb := rfl
@[simp] theorem State.setH_H (s : State) (v : Half) : (s.setH v).H = v := rfl
@[simp] theorem State.setH_T (s : State) (v : Half) : (s.setH v).T = s.T := rfl
@[simp] theorem State.setH_P (s : State) (v : Half) : (s.setH v).P = s.P := rfl
@[simp] theorem State.setH_F (s : State) (v : Half) : (s.setH v).F = s.F := rfl
@[simp] theorem State.setH_M (s : State) (v : Half) : (s.setH v).M = s.M := rfl
@[simp] theorem State.setH_OP (s : State) (v : Half) : (s.setH v).OP = s.OP := rfl
@[simp] theorem State.setH_RSV (s : State) (v : Half) : (s.setH v).RSV = s.RSV := rfl
@[simp] theorem State.setH_ARG (s : State) (v : Half) : (s.setH v).ARG = s.ARG := rfl
@[simp] theorem State.setH_I (s : State) (v : Half) : (s.setH v).I = s.I := rfl
@[simp] theorem State.setH_RES (s : State) (v : Half) : (s.setH v).RES = s.RES := rfl
@[simp] theorem State.setH_seq (s : State) (v : Half) : (s.setH v).seq = s.seq := rfl
@[simp] theorem State.setH_point (s : State) (v : Half) : (s.setH v).point = s.point := rfl
@[simp] theorem State.setH_rspWord (s : State) (v : Half) : (s.setH v).rspWord = s.rspWord := rfl
@[simp] theorem State.setH_faultRec (s : State) (v : Half) : (s.setH v).faultRec = s.faultRec := rfl
@[simp] theorem State.setH_cmd (s : State) (v : Half) : (s.setH v).cmd = s.cmd := rfl
@[simp] theorem State.setH_rspReady (s : State) (v : Half) : (s.setH v).rspReady = s.rspReady := rfl
@[simp] theorem State.setH_rst (s : State) (v : Half) : (s.setH v).rst = s.rst := rfl
@[simp] theorem State.setH_byEvent (s : State) (v : Half) : (s.setH v).byEvent = s.byEvent := rfl
@[simp] theorem State.setH_answered (s : State) (v : Half) : (s.setH v).answered = s.answered := rfl
@[simp] theorem State.setH_log (s : State) (v : Half) : (s.setH v).log = s.log := rfl

@[simp] theorem State.setT_store (s : State) (v : Half) : (s.setT v).store = s.store := rfl
@[simp] theorem State.setT_hb (s : State) (v : Half) : (s.setT v).hb = s.hb := rfl
@[simp] theorem State.setT_H (s : State) (v : Half) : (s.setT v).H = s.H := rfl
@[simp] theorem State.setT_T (s : State) (v : Half) : (s.setT v).T = v := rfl
@[simp] theorem State.setT_P (s : State) (v : Half) : (s.setT v).P = s.P := rfl
@[simp] theorem State.setT_F (s : State) (v : Half) : (s.setT v).F = s.F := rfl
@[simp] theorem State.setT_M (s : State) (v : Half) : (s.setT v).M = s.M := rfl
@[simp] theorem State.setT_OP (s : State) (v : Half) : (s.setT v).OP = s.OP := rfl
@[simp] theorem State.setT_RSV (s : State) (v : Half) : (s.setT v).RSV = s.RSV := rfl
@[simp] theorem State.setT_ARG (s : State) (v : Half) : (s.setT v).ARG = s.ARG := rfl
@[simp] theorem State.setT_I (s : State) (v : Half) : (s.setT v).I = s.I := rfl
@[simp] theorem State.setT_RES (s : State) (v : Half) : (s.setT v).RES = s.RES := rfl
@[simp] theorem State.setT_seq (s : State) (v : Half) : (s.setT v).seq = s.seq := rfl
@[simp] theorem State.setT_point (s : State) (v : Half) : (s.setT v).point = s.point := rfl
@[simp] theorem State.setT_rspWord (s : State) (v : Half) : (s.setT v).rspWord = s.rspWord := rfl
@[simp] theorem State.setT_faultRec (s : State) (v : Half) : (s.setT v).faultRec = s.faultRec := rfl
@[simp] theorem State.setT_cmd (s : State) (v : Half) : (s.setT v).cmd = s.cmd := rfl
@[simp] theorem State.setT_rspReady (s : State) (v : Half) : (s.setT v).rspReady = s.rspReady := rfl
@[simp] theorem State.setT_rst (s : State) (v : Half) : (s.setT v).rst = s.rst := rfl
@[simp] theorem State.setT_byEvent (s : State) (v : Half) : (s.setT v).byEvent = s.byEvent := rfl
@[simp] theorem State.setT_answered (s : State) (v : Half) : (s.setT v).answered = s.answered := rfl
@[simp] theorem State.setT_log (s : State) (v : Half) : (s.setT v).log = s.log := rfl

@[simp] theorem State.setP_store (s : State) (v : Half) : (s.setP v).store = s.store := rfl
@[simp] theorem State.setP_hb (s : State) (v : Half) : (s.setP v).hb = s.hb := rfl
@[simp] theorem State.setP_H (s : State) (v : Half) : (s.setP v).H = s.H := rfl
@[simp] theorem State.setP_T (s : State) (v : Half) : (s.setP v).T = s.T := rfl
@[simp] theorem State.setP_P (s : State) (v : Half) : (s.setP v).P = v := rfl
@[simp] theorem State.setP_F (s : State) (v : Half) : (s.setP v).F = s.F := rfl
@[simp] theorem State.setP_M (s : State) (v : Half) : (s.setP v).M = s.M := rfl
@[simp] theorem State.setP_OP (s : State) (v : Half) : (s.setP v).OP = s.OP := rfl
@[simp] theorem State.setP_RSV (s : State) (v : Half) : (s.setP v).RSV = s.RSV := rfl
@[simp] theorem State.setP_ARG (s : State) (v : Half) : (s.setP v).ARG = s.ARG := rfl
@[simp] theorem State.setP_I (s : State) (v : Half) : (s.setP v).I = s.I := rfl
@[simp] theorem State.setP_RES (s : State) (v : Half) : (s.setP v).RES = s.RES := rfl
@[simp] theorem State.setP_seq (s : State) (v : Half) : (s.setP v).seq = s.seq := rfl
@[simp] theorem State.setP_point (s : State) (v : Half) : (s.setP v).point = s.point := rfl
@[simp] theorem State.setP_rspWord (s : State) (v : Half) : (s.setP v).rspWord = s.rspWord := rfl
@[simp] theorem State.setP_faultRec (s : State) (v : Half) : (s.setP v).faultRec = s.faultRec := rfl
@[simp] theorem State.setP_cmd (s : State) (v : Half) : (s.setP v).cmd = s.cmd := rfl
@[simp] theorem State.setP_rspReady (s : State) (v : Half) : (s.setP v).rspReady = s.rspReady := rfl
@[simp] theorem State.setP_rst (s : State) (v : Half) : (s.setP v).rst = s.rst := rfl
@[simp] theorem State.setP_byEvent (s : State) (v : Half) : (s.setP v).byEvent = s.byEvent := rfl
@[simp] theorem State.setP_answered (s : State) (v : Half) : (s.setP v).answered = s.answered := rfl
@[simp] theorem State.setP_log (s : State) (v : Half) : (s.setP v).log = s.log := rfl

@[simp] theorem State.setF_store (s : State) (v : Byte) : (s.setF v).store = s.store := rfl
@[simp] theorem State.setF_hb (s : State) (v : Byte) : (s.setF v).hb = s.hb := rfl
@[simp] theorem State.setF_H (s : State) (v : Byte) : (s.setF v).H = s.H := rfl
@[simp] theorem State.setF_T (s : State) (v : Byte) : (s.setF v).T = s.T := rfl
@[simp] theorem State.setF_P (s : State) (v : Byte) : (s.setF v).P = s.P := rfl
@[simp] theorem State.setF_F (s : State) (v : Byte) : (s.setF v).F = v := rfl
@[simp] theorem State.setF_M (s : State) (v : Byte) : (s.setF v).M = s.M := rfl
@[simp] theorem State.setF_OP (s : State) (v : Byte) : (s.setF v).OP = s.OP := rfl
@[simp] theorem State.setF_RSV (s : State) (v : Byte) : (s.setF v).RSV = s.RSV := rfl
@[simp] theorem State.setF_ARG (s : State) (v : Byte) : (s.setF v).ARG = s.ARG := rfl
@[simp] theorem State.setF_I (s : State) (v : Byte) : (s.setF v).I = s.I := rfl
@[simp] theorem State.setF_RES (s : State) (v : Byte) : (s.setF v).RES = s.RES := rfl
@[simp] theorem State.setF_seq (s : State) (v : Byte) : (s.setF v).seq = s.seq := rfl
@[simp] theorem State.setF_point (s : State) (v : Byte) : (s.setF v).point = s.point := rfl
@[simp] theorem State.setF_rspWord (s : State) (v : Byte) : (s.setF v).rspWord = s.rspWord := rfl
@[simp] theorem State.setF_faultRec (s : State) (v : Byte) : (s.setF v).faultRec = s.faultRec := rfl
@[simp] theorem State.setF_cmd (s : State) (v : Byte) : (s.setF v).cmd = s.cmd := rfl
@[simp] theorem State.setF_rspReady (s : State) (v : Byte) : (s.setF v).rspReady = s.rspReady := rfl
@[simp] theorem State.setF_rst (s : State) (v : Byte) : (s.setF v).rst = s.rst := rfl
@[simp] theorem State.setF_byEvent (s : State) (v : Byte) : (s.setF v).byEvent = s.byEvent := rfl
@[simp] theorem State.setF_answered (s : State) (v : Byte) : (s.setF v).answered = s.answered := rfl
@[simp] theorem State.setF_log (s : State) (v : Byte) : (s.setF v).log = s.log := rfl

@[simp] theorem State.setM_store (s : State) (v : Word) : (s.setM v).store = s.store := rfl
@[simp] theorem State.setM_hb (s : State) (v : Word) : (s.setM v).hb = s.hb := rfl
@[simp] theorem State.setM_H (s : State) (v : Word) : (s.setM v).H = s.H := rfl
@[simp] theorem State.setM_T (s : State) (v : Word) : (s.setM v).T = s.T := rfl
@[simp] theorem State.setM_P (s : State) (v : Word) : (s.setM v).P = s.P := rfl
@[simp] theorem State.setM_F (s : State) (v : Word) : (s.setM v).F = s.F := rfl
@[simp] theorem State.setM_M (s : State) (v : Word) : (s.setM v).M = v := rfl
@[simp] theorem State.setM_OP (s : State) (v : Word) : (s.setM v).OP = s.OP := rfl
@[simp] theorem State.setM_RSV (s : State) (v : Word) : (s.setM v).RSV = s.RSV := rfl
@[simp] theorem State.setM_ARG (s : State) (v : Word) : (s.setM v).ARG = s.ARG := rfl
@[simp] theorem State.setM_I (s : State) (v : Word) : (s.setM v).I = s.I := rfl
@[simp] theorem State.setM_RES (s : State) (v : Word) : (s.setM v).RES = s.RES := rfl
@[simp] theorem State.setM_seq (s : State) (v : Word) : (s.setM v).seq = s.seq := rfl
@[simp] theorem State.setM_point (s : State) (v : Word) : (s.setM v).point = s.point := rfl
@[simp] theorem State.setM_rspWord (s : State) (v : Word) : (s.setM v).rspWord = s.rspWord := rfl
@[simp] theorem State.setM_faultRec (s : State) (v : Word) : (s.setM v).faultRec = s.faultRec := rfl
@[simp] theorem State.setM_cmd (s : State) (v : Word) : (s.setM v).cmd = s.cmd := rfl
@[simp] theorem State.setM_rspReady (s : State) (v : Word) : (s.setM v).rspReady = s.rspReady := rfl
@[simp] theorem State.setM_rst (s : State) (v : Word) : (s.setM v).rst = s.rst := rfl
@[simp] theorem State.setM_byEvent (s : State) (v : Word) : (s.setM v).byEvent = s.byEvent := rfl
@[simp] theorem State.setM_answered (s : State) (v : Word) : (s.setM v).answered = s.answered := rfl
@[simp] theorem State.setM_log (s : State) (v : Word) : (s.setM v).log = s.log := rfl

@[simp] theorem State.setI_store (s : State) (v : Half) : (s.setI v).store = s.store := rfl
@[simp] theorem State.setI_hb (s : State) (v : Half) : (s.setI v).hb = s.hb := rfl
@[simp] theorem State.setI_H (s : State) (v : Half) : (s.setI v).H = s.H := rfl
@[simp] theorem State.setI_T (s : State) (v : Half) : (s.setI v).T = s.T := rfl
@[simp] theorem State.setI_P (s : State) (v : Half) : (s.setI v).P = s.P := rfl
@[simp] theorem State.setI_F (s : State) (v : Half) : (s.setI v).F = s.F := rfl
@[simp] theorem State.setI_M (s : State) (v : Half) : (s.setI v).M = s.M := rfl
@[simp] theorem State.setI_OP (s : State) (v : Half) : (s.setI v).OP = s.OP := rfl
@[simp] theorem State.setI_RSV (s : State) (v : Half) : (s.setI v).RSV = s.RSV := rfl
@[simp] theorem State.setI_ARG (s : State) (v : Half) : (s.setI v).ARG = s.ARG := rfl
@[simp] theorem State.setI_I (s : State) (v : Half) : (s.setI v).I = v := rfl
@[simp] theorem State.setI_RES (s : State) (v : Half) : (s.setI v).RES = s.RES := rfl
@[simp] theorem State.setI_seq (s : State) (v : Half) : (s.setI v).seq = s.seq := rfl
@[simp] theorem State.setI_point (s : State) (v : Half) : (s.setI v).point = s.point := rfl
@[simp] theorem State.setI_rspWord (s : State) (v : Half) : (s.setI v).rspWord = s.rspWord := rfl
@[simp] theorem State.setI_faultRec (s : State) (v : Half) : (s.setI v).faultRec = s.faultRec := rfl
@[simp] theorem State.setI_cmd (s : State) (v : Half) : (s.setI v).cmd = s.cmd := rfl
@[simp] theorem State.setI_rspReady (s : State) (v : Half) : (s.setI v).rspReady = s.rspReady := rfl
@[simp] theorem State.setI_rst (s : State) (v : Half) : (s.setI v).rst = s.rst := rfl
@[simp] theorem State.setI_byEvent (s : State) (v : Half) : (s.setI v).byEvent = s.byEvent := rfl
@[simp] theorem State.setI_answered (s : State) (v : Half) : (s.setI v).answered = s.answered := rfl
@[simp] theorem State.setI_log (s : State) (v : Half) : (s.setI v).log = s.log := rfl

@[simp] theorem State.setPoint_store (s : State) (p : Point) : (s.setPoint p).store = s.store := rfl
@[simp] theorem State.setPoint_hb (s : State) (p : Point) : (s.setPoint p).hb = s.hb := rfl
@[simp] theorem State.setPoint_H (s : State) (p : Point) : (s.setPoint p).H = s.H := rfl
@[simp] theorem State.setPoint_T (s : State) (p : Point) : (s.setPoint p).T = s.T := rfl
@[simp] theorem State.setPoint_P (s : State) (p : Point) : (s.setPoint p).P = s.P := rfl
@[simp] theorem State.setPoint_F (s : State) (p : Point) : (s.setPoint p).F = s.F := rfl
@[simp] theorem State.setPoint_M (s : State) (p : Point) : (s.setPoint p).M = s.M := rfl
@[simp] theorem State.setPoint_OP (s : State) (p : Point) : (s.setPoint p).OP = s.OP := rfl
@[simp] theorem State.setPoint_RSV (s : State) (p : Point) : (s.setPoint p).RSV = s.RSV := rfl
@[simp] theorem State.setPoint_ARG (s : State) (p : Point) : (s.setPoint p).ARG = s.ARG := rfl
@[simp] theorem State.setPoint_I (s : State) (p : Point) : (s.setPoint p).I = s.I := rfl
@[simp] theorem State.setPoint_RES (s : State) (p : Point) : (s.setPoint p).RES = s.RES := rfl
@[simp] theorem State.setPoint_seq (s : State) (p : Point) : (s.setPoint p).seq = s.seq := rfl
@[simp] theorem State.setPoint_point (s : State) (p : Point) : (s.setPoint p).point = p := rfl
@[simp] theorem State.setPoint_rspWord (s : State) (p : Point) : (s.setPoint p).rspWord = s.rspWord := rfl
@[simp] theorem State.setPoint_faultRec (s : State) (p : Point) : (s.setPoint p).faultRec = s.faultRec := rfl
@[simp] theorem State.setPoint_cmd (s : State) (p : Point) : (s.setPoint p).cmd = s.cmd := rfl
@[simp] theorem State.setPoint_rspReady (s : State) (p : Point) : (s.setPoint p).rspReady = s.rspReady := rfl
@[simp] theorem State.setPoint_rst (s : State) (p : Point) : (s.setPoint p).rst = s.rst := rfl
@[simp] theorem State.setPoint_byEvent (s : State) (p : Point) : (s.setPoint p).byEvent = s.byEvent := rfl
@[simp] theorem State.setPoint_answered (s : State) (p : Point) : (s.setPoint p).answered = s.answered := rfl
@[simp] theorem State.setPoint_log (s : State) (p : Point) : (s.setPoint p).log = s.log := rfl

@[simp] theorem State.storeRead_store (s : State) (a : Nat) : (s.storeRead a).store = s.store := rfl
@[simp] theorem State.storeRead_hb (s : State) (a : Nat) : (s.storeRead a).hb = s.hb := rfl
@[simp] theorem State.storeRead_H (s : State) (a : Nat) : (s.storeRead a).H = s.H := rfl
@[simp] theorem State.storeRead_T (s : State) (a : Nat) : (s.storeRead a).T = s.T := rfl
@[simp] theorem State.storeRead_P (s : State) (a : Nat) : (s.storeRead a).P = s.P := rfl
@[simp] theorem State.storeRead_F (s : State) (a : Nat) : (s.storeRead a).F = s.F := rfl
@[simp] theorem State.storeRead_M (s : State) (a : Nat) : (s.storeRead a).M = s.M := rfl
@[simp] theorem State.storeRead_OP (s : State) (a : Nat) : (s.storeRead a).OP = s.OP := rfl
@[simp] theorem State.storeRead_RSV (s : State) (a : Nat) : (s.storeRead a).RSV = s.RSV := rfl
@[simp] theorem State.storeRead_ARG (s : State) (a : Nat) : (s.storeRead a).ARG = s.ARG := rfl
@[simp] theorem State.storeRead_I (s : State) (a : Nat) : (s.storeRead a).I = s.I := rfl
@[simp] theorem State.storeRead_RES (s : State) (a : Nat) : (s.storeRead a).RES = s.RES := rfl
@[simp] theorem State.storeRead_seq (s : State) (a : Nat) : (s.storeRead a).seq = s.seq.bump := rfl
@[simp] theorem State.storeRead_point (s : State) (a : Nat) : (s.storeRead a).point = s.point := rfl
@[simp] theorem State.storeRead_rspWord (s : State) (a : Nat) : (s.storeRead a).rspWord = s.rspWord := rfl
@[simp] theorem State.storeRead_faultRec (s : State) (a : Nat) : (s.storeRead a).faultRec = s.faultRec := rfl
@[simp] theorem State.storeRead_cmd (s : State) (a : Nat) : (s.storeRead a).cmd = s.cmd := rfl
@[simp] theorem State.storeRead_rspReady (s : State) (a : Nat) : (s.storeRead a).rspReady = s.rspReady := rfl
@[simp] theorem State.storeRead_rst (s : State) (a : Nat) : (s.storeRead a).rst = s.rst := rfl
@[simp] theorem State.storeRead_byEvent (s : State) (a : Nat) : (s.storeRead a).byEvent = s.byEvent := rfl
@[simp] theorem State.storeRead_answered (s : State) (a : Nat) : (s.storeRead a).answered = s.answered := rfl
@[simp] theorem State.storeRead_log (s : State) (a : Nat) : (s.storeRead a).log = .storeRead a (s.store.read a) :: s.log := rfl

@[simp] theorem State.storeWrite_store (s : State) (a : Nat) (v : Byte) : (s.storeWrite a v).store = s.store.write a v := rfl
@[simp] theorem State.storeWrite_hb (s : State) (a : Nat) (v : Byte) : (s.storeWrite a v).hb = s.hb := rfl
@[simp] theorem State.storeWrite_H (s : State) (a : Nat) (v : Byte) : (s.storeWrite a v).H = s.H := rfl
@[simp] theorem State.storeWrite_T (s : State) (a : Nat) (v : Byte) : (s.storeWrite a v).T = s.T := rfl
@[simp] theorem State.storeWrite_P (s : State) (a : Nat) (v : Byte) : (s.storeWrite a v).P = s.P := rfl
@[simp] theorem State.storeWrite_F (s : State) (a : Nat) (v : Byte) : (s.storeWrite a v).F = s.F := rfl
@[simp] theorem State.storeWrite_M (s : State) (a : Nat) (v : Byte) : (s.storeWrite a v).M = s.M := rfl
@[simp] theorem State.storeWrite_OP (s : State) (a : Nat) (v : Byte) : (s.storeWrite a v).OP = s.OP := rfl
@[simp] theorem State.storeWrite_RSV (s : State) (a : Nat) (v : Byte) : (s.storeWrite a v).RSV = s.RSV := rfl
@[simp] theorem State.storeWrite_ARG (s : State) (a : Nat) (v : Byte) : (s.storeWrite a v).ARG = s.ARG := rfl
@[simp] theorem State.storeWrite_I (s : State) (a : Nat) (v : Byte) : (s.storeWrite a v).I = s.I := rfl
@[simp] theorem State.storeWrite_RES (s : State) (a : Nat) (v : Byte) : (s.storeWrite a v).RES = s.RES := rfl
@[simp] theorem State.storeWrite_seq (s : State) (a : Nat) (v : Byte) : (s.storeWrite a v).seq = s.seq.bump := rfl
@[simp] theorem State.storeWrite_point (s : State) (a : Nat) (v : Byte) : (s.storeWrite a v).point = s.point := rfl
@[simp] theorem State.storeWrite_rspWord (s : State) (a : Nat) (v : Byte) : (s.storeWrite a v).rspWord = s.rspWord := rfl
@[simp] theorem State.storeWrite_faultRec (s : State) (a : Nat) (v : Byte) : (s.storeWrite a v).faultRec = s.faultRec := rfl
@[simp] theorem State.storeWrite_cmd (s : State) (a : Nat) (v : Byte) : (s.storeWrite a v).cmd = s.cmd := rfl
@[simp] theorem State.storeWrite_rspReady (s : State) (a : Nat) (v : Byte) : (s.storeWrite a v).rspReady = s.rspReady := rfl
@[simp] theorem State.storeWrite_rst (s : State) (a : Nat) (v : Byte) : (s.storeWrite a v).rst = s.rst := rfl
@[simp] theorem State.storeWrite_byEvent (s : State) (a : Nat) (v : Byte) : (s.storeWrite a v).byEvent = s.byEvent := rfl
@[simp] theorem State.storeWrite_answered (s : State) (a : Nat) (v : Byte) : (s.storeWrite a v).answered = s.answered := rfl
@[simp] theorem State.storeWrite_log (s : State) (a : Nat) (v : Byte) : (s.storeWrite a v).log = .storeWrite a v :: s.log := rfl

@[simp] theorem State.hbRead_store (s : State) (i : Nat) : (s.hbRead i).store = s.store := rfl
@[simp] theorem State.hbRead_hb (s : State) (i : Nat) : (s.hbRead i).hb = s.hb := rfl
@[simp] theorem State.hbRead_H (s : State) (i : Nat) : (s.hbRead i).H = s.H := rfl
@[simp] theorem State.hbRead_T (s : State) (i : Nat) : (s.hbRead i).T = s.T := rfl
@[simp] theorem State.hbRead_P (s : State) (i : Nat) : (s.hbRead i).P = s.P := rfl
@[simp] theorem State.hbRead_F (s : State) (i : Nat) : (s.hbRead i).F = s.F := rfl
@[simp] theorem State.hbRead_M (s : State) (i : Nat) : (s.hbRead i).M = s.M := rfl
@[simp] theorem State.hbRead_OP (s : State) (i : Nat) : (s.hbRead i).OP = s.OP := rfl
@[simp] theorem State.hbRead_RSV (s : State) (i : Nat) : (s.hbRead i).RSV = s.RSV := rfl
@[simp] theorem State.hbRead_ARG (s : State) (i : Nat) : (s.hbRead i).ARG = s.ARG := rfl
@[simp] theorem State.hbRead_I (s : State) (i : Nat) : (s.hbRead i).I = s.I := rfl
@[simp] theorem State.hbRead_RES (s : State) (i : Nat) : (s.hbRead i).RES = s.RES := rfl
@[simp] theorem State.hbRead_seq (s : State) (i : Nat) : (s.hbRead i).seq = s.seq.bump := rfl
@[simp] theorem State.hbRead_point (s : State) (i : Nat) : (s.hbRead i).point = s.point := rfl
@[simp] theorem State.hbRead_rspWord (s : State) (i : Nat) : (s.hbRead i).rspWord = s.rspWord := rfl
@[simp] theorem State.hbRead_faultRec (s : State) (i : Nat) : (s.hbRead i).faultRec = s.faultRec := rfl
@[simp] theorem State.hbRead_cmd (s : State) (i : Nat) : (s.hbRead i).cmd = s.cmd := rfl
@[simp] theorem State.hbRead_rspReady (s : State) (i : Nat) : (s.hbRead i).rspReady = s.rspReady := rfl
@[simp] theorem State.hbRead_rst (s : State) (i : Nat) : (s.hbRead i).rst = s.rst := rfl
@[simp] theorem State.hbRead_byEvent (s : State) (i : Nat) : (s.hbRead i).byEvent = s.byEvent := rfl
@[simp] theorem State.hbRead_answered (s : State) (i : Nat) : (s.hbRead i).answered = s.answered := rfl
@[simp] theorem State.hbRead_log (s : State) (i : Nat) : (s.hbRead i).log = .hbRead i (s.hb.read i) :: s.log := rfl

@[simp] theorem State.hbWrite_store (s : State) (i : Nat) (v : Byte) : (s.hbWrite i v).store = s.store := rfl
@[simp] theorem State.hbWrite_hb (s : State) (i : Nat) (v : Byte) : (s.hbWrite i v).hb = s.hb.write i v := rfl
@[simp] theorem State.hbWrite_H (s : State) (i : Nat) (v : Byte) : (s.hbWrite i v).H = s.H := rfl
@[simp] theorem State.hbWrite_T (s : State) (i : Nat) (v : Byte) : (s.hbWrite i v).T = s.T := rfl
@[simp] theorem State.hbWrite_P (s : State) (i : Nat) (v : Byte) : (s.hbWrite i v).P = s.P := rfl
@[simp] theorem State.hbWrite_F (s : State) (i : Nat) (v : Byte) : (s.hbWrite i v).F = s.F := rfl
@[simp] theorem State.hbWrite_M (s : State) (i : Nat) (v : Byte) : (s.hbWrite i v).M = s.M := rfl
@[simp] theorem State.hbWrite_OP (s : State) (i : Nat) (v : Byte) : (s.hbWrite i v).OP = s.OP := rfl
@[simp] theorem State.hbWrite_RSV (s : State) (i : Nat) (v : Byte) : (s.hbWrite i v).RSV = s.RSV := rfl
@[simp] theorem State.hbWrite_ARG (s : State) (i : Nat) (v : Byte) : (s.hbWrite i v).ARG = s.ARG := rfl
@[simp] theorem State.hbWrite_I (s : State) (i : Nat) (v : Byte) : (s.hbWrite i v).I = s.I := rfl
@[simp] theorem State.hbWrite_RES (s : State) (i : Nat) (v : Byte) : (s.hbWrite i v).RES = s.RES := rfl
@[simp] theorem State.hbWrite_seq (s : State) (i : Nat) (v : Byte) : (s.hbWrite i v).seq = s.seq.bump := rfl
@[simp] theorem State.hbWrite_point (s : State) (i : Nat) (v : Byte) : (s.hbWrite i v).point = s.point := rfl
@[simp] theorem State.hbWrite_rspWord (s : State) (i : Nat) (v : Byte) : (s.hbWrite i v).rspWord = s.rspWord := rfl
@[simp] theorem State.hbWrite_faultRec (s : State) (i : Nat) (v : Byte) : (s.hbWrite i v).faultRec = s.faultRec := rfl
@[simp] theorem State.hbWrite_cmd (s : State) (i : Nat) (v : Byte) : (s.hbWrite i v).cmd = s.cmd := rfl
@[simp] theorem State.hbWrite_rspReady (s : State) (i : Nat) (v : Byte) : (s.hbWrite i v).rspReady = s.rspReady := rfl
@[simp] theorem State.hbWrite_rst (s : State) (i : Nat) (v : Byte) : (s.hbWrite i v).rst = s.rst := rfl
@[simp] theorem State.hbWrite_byEvent (s : State) (i : Nat) (v : Byte) : (s.hbWrite i v).byEvent = s.byEvent := rfl
@[simp] theorem State.hbWrite_answered (s : State) (i : Nat) (v : Byte) : (s.hbWrite i v).answered = s.answered := rfl
@[simp] theorem State.hbWrite_log (s : State) (i : Nat) (v : Byte) : (s.hbWrite i v).log = .hbWrite i v :: s.log := rfl

@[simp] theorem State.accept_store (s : State) (w : Word) : (s.accept w).store = s.store := rfl
@[simp] theorem State.accept_hb (s : State) (w : Word) : (s.accept w).hb = s.hb := rfl
@[simp] theorem State.accept_H (s : State) (w : Word) : (s.accept w).H = s.H := rfl
@[simp] theorem State.accept_T (s : State) (w : Word) : (s.accept w).T = s.T := rfl
@[simp] theorem State.accept_P (s : State) (w : Word) : (s.accept w).P = s.P := rfl
@[simp] theorem State.accept_F (s : State) (w : Word) : (s.accept w).F = s.F := rfl
@[simp] theorem State.accept_M (s : State) (w : Word) : (s.accept w).M = s.M := rfl
@[simp] theorem State.accept_OP (s : State) (w : Word) : (s.accept w).OP = opField w := rfl
@[simp] theorem State.accept_RSV (s : State) (w : Word) : (s.accept w).RSV = rsvField w := rfl
@[simp] theorem State.accept_ARG (s : State) (w : Word) : (s.accept w).ARG = argField w := rfl
@[simp] theorem State.accept_I (s : State) (w : Word) : (s.accept w).I = s.I := rfl
@[simp] theorem State.accept_RES (s : State) (w : Word) : (s.accept w).RES = s.RES := rfl
@[simp] theorem State.accept_seq (s : State) (w : Word) : (s.accept w).seq = .busy 0 := rfl
@[simp] theorem State.accept_point (s : State) (w : Word) : (s.accept w).point = .rest := rfl
@[simp] theorem State.accept_rspWord (s : State) (w : Word) : (s.accept w).rspWord = s.rspWord := rfl
@[simp] theorem State.accept_faultRec (s : State) (w : Word) : (s.accept w).faultRec = s.faultRec := rfl
@[simp] theorem State.accept_cmd (s : State) (w : Word) : (s.accept w).cmd = none := rfl
@[simp] theorem State.accept_rspReady (s : State) (w : Word) : (s.accept w).rspReady = s.rspReady := rfl
@[simp] theorem State.accept_rst (s : State) (w : Word) : (s.accept w).rst = s.rst := rfl
@[simp] theorem State.accept_byEvent (s : State) (w : Word) : (s.accept w).byEvent = s.byEvent := rfl
@[simp] theorem State.accept_answered (s : State) (w : Word) : (s.accept w).answered = s.answered := rfl
@[simp] theorem State.accept_log (s : State) (w : Word) : (s.accept w).log = [] := rfl

@[simp] theorem State.respond_store (s : State) (st : Status) (r : Bool) : (s.respond st r).store = s.store := rfl
@[simp] theorem State.respond_hb (s : State) (st : Status) (r : Bool) : (s.respond st r).hb = s.hb := rfl
@[simp] theorem State.respond_H (s : State) (st : Status) (r : Bool) : (s.respond st r).H = s.H := rfl
@[simp] theorem State.respond_T (s : State) (st : Status) (r : Bool) : (s.respond st r).T = s.T := rfl
@[simp] theorem State.respond_P (s : State) (st : Status) (r : Bool) : (s.respond st r).P = s.P := rfl
@[simp] theorem State.respond_F (s : State) (st : Status) (r : Bool) : (s.respond st r).F = s.F := rfl
@[simp] theorem State.respond_M (s : State) (st : Status) (r : Bool) : (s.respond st r).M = s.M := rfl
@[simp] theorem State.respond_OP (s : State) (st : Status) (r : Bool) : (s.respond st r).OP = s.OP := rfl
@[simp] theorem State.respond_RSV (s : State) (st : Status) (r : Bool) : (s.respond st r).RSV = s.RSV := rfl
@[simp] theorem State.respond_ARG (s : State) (st : Status) (r : Bool) : (s.respond st r).ARG = s.ARG := rfl
@[simp] theorem State.respond_I (s : State) (st : Status) (r : Bool) : (s.respond st r).I = s.I := rfl
@[simp] theorem State.respond_RES (s : State) (st : Status) (r : Bool) : (s.respond st r).RES = r := rfl
@[simp] theorem State.respond_seq (s : State) (st : Status) (r : Bool) : (s.respond st r).seq = .resp := rfl
@[simp] theorem State.respond_point (s : State) (st : Status) (r : Bool) : (s.respond st r).point = .rest := rfl
@[simp] theorem State.respond_rspWord (s : State) (st : Status) (r : Bool) : (s.respond st r).rspWord = responseWord st r := rfl
@[simp] theorem State.respond_faultRec (s : State) (st : Status) (r : Bool) : (s.respond st r).faultRec = s.faultRec := rfl
@[simp] theorem State.respond_cmd (s : State) (st : Status) (r : Bool) : (s.respond st r).cmd = s.cmd := rfl
@[simp] theorem State.respond_rspReady (s : State) (st : Status) (r : Bool) : (s.respond st r).rspReady = s.rspReady := rfl
@[simp] theorem State.respond_rst (s : State) (st : Status) (r : Bool) : (s.respond st r).rst = s.rst := rfl
@[simp] theorem State.respond_byEvent (s : State) (st : Status) (r : Bool) : (s.respond st r).byEvent = s.byEvent := rfl
@[simp] theorem State.respond_answered (s : State) (st : Status) (r : Bool) : (s.respond st r).answered = s.answered := rfl
@[simp] theorem State.respond_log (s : State) (st : Status) (r : Bool) : (s.respond st r).log = .respond (responseWord st r) :: s.log := rfl

@[simp] theorem State.takeResponse_store (s : State) : (s.takeResponse).store = s.store := rfl
@[simp] theorem State.takeResponse_hb (s : State) : (s.takeResponse).hb = s.hb := rfl
@[simp] theorem State.takeResponse_H (s : State) : (s.takeResponse).H = s.H := rfl
@[simp] theorem State.takeResponse_T (s : State) : (s.takeResponse).T = s.T := rfl
@[simp] theorem State.takeResponse_P (s : State) : (s.takeResponse).P = s.P := rfl
@[simp] theorem State.takeResponse_F (s : State) : (s.takeResponse).F = s.F := rfl
@[simp] theorem State.takeResponse_M (s : State) : (s.takeResponse).M = s.M := rfl
@[simp] theorem State.takeResponse_OP (s : State) : (s.takeResponse).OP = s.OP := rfl
@[simp] theorem State.takeResponse_RSV (s : State) : (s.takeResponse).RSV = s.RSV := rfl
@[simp] theorem State.takeResponse_ARG (s : State) : (s.takeResponse).ARG = s.ARG := rfl
@[simp] theorem State.takeResponse_I (s : State) : (s.takeResponse).I = s.I := rfl
@[simp] theorem State.takeResponse_RES (s : State) : (s.takeResponse).RES = s.RES := rfl
@[simp] theorem State.takeResponse_seq (s : State) : (s.takeResponse).seq = .idle := rfl
@[simp] theorem State.takeResponse_point (s : State) : (s.takeResponse).point = s.point := rfl
@[simp] theorem State.takeResponse_rspWord (s : State) : (s.takeResponse).rspWord = s.rspWord := rfl
@[simp] theorem State.takeResponse_faultRec (s : State) : (s.takeResponse).faultRec = s.faultRec := rfl
@[simp] theorem State.takeResponse_cmd (s : State) : (s.takeResponse).cmd = s.cmd := rfl
@[simp] theorem State.takeResponse_rspReady (s : State) : (s.takeResponse).rspReady = s.rspReady := rfl
@[simp] theorem State.takeResponse_rst (s : State) : (s.takeResponse).rst = s.rst := rfl
@[simp] theorem State.takeResponse_byEvent (s : State) : (s.takeResponse).byEvent = s.byEvent := rfl
@[simp] theorem State.takeResponse_answered (s : State) :
    s.takeResponse.answered = s.answered ++ [(s.command, s.rspWord)] := rfl
@[simp] theorem State.takeResponse_log (s : State) : (s.takeResponse).log = s.log := rfl

@[simp] theorem State.resetEngine_store (s : State) : (s.resetEngine).store = s.store := rfl
@[simp] theorem State.resetEngine_hb (s : State) : (s.resetEngine).hb = s.hb := rfl
@[simp] theorem State.resetEngine_H (s : State) : (s.resetEngine).H = 0 := rfl
@[simp] theorem State.resetEngine_T (s : State) : (s.resetEngine).T = 0 := rfl
@[simp] theorem State.resetEngine_P (s : State) : (s.resetEngine).P = 0 := rfl
@[simp] theorem State.resetEngine_F (s : State) : (s.resetEngine).F = 0 := rfl
@[simp] theorem State.resetEngine_M (s : State) : (s.resetEngine).M = 0 := rfl
@[simp] theorem State.resetEngine_OP (s : State) : (s.resetEngine).OP = 0 := rfl
@[simp] theorem State.resetEngine_RSV (s : State) : (s.resetEngine).RSV = 0 := rfl
@[simp] theorem State.resetEngine_ARG (s : State) : (s.resetEngine).ARG = 0 := rfl
@[simp] theorem State.resetEngine_I (s : State) : (s.resetEngine).I = 0 := rfl
@[simp] theorem State.resetEngine_RES (s : State) : (s.resetEngine).RES = false := rfl
@[simp] theorem State.resetEngine_seq (s : State) : (s.resetEngine).seq = .idle := rfl
@[simp] theorem State.resetEngine_point (s : State) : (s.resetEngine).point = .rest := rfl
@[simp] theorem State.resetEngine_rspWord (s : State) : (s.resetEngine).rspWord = 0 := rfl
@[simp] theorem State.resetEngine_faultRec (s : State) : (s.resetEngine).faultRec = none := rfl
@[simp] theorem State.resetEngine_cmd (s : State) : (s.resetEngine).cmd = s.cmd := rfl
@[simp] theorem State.resetEngine_rspReady (s : State) : (s.resetEngine).rspReady = s.rspReady := rfl
@[simp] theorem State.resetEngine_rst (s : State) : (s.resetEngine).rst = false := rfl
@[simp] theorem State.resetEngine_byEvent (s : State) : (s.resetEngine).byEvent = s.byEvent := rfl
@[simp] theorem State.resetEngine_answered (s : State) : (s.resetEngine).answered = [] := rfl
@[simp] theorem State.resetEngine_log (s : State) : (s.resetEngine).log = [] := rfl

end Sys2Proof.Machine
end

