-- ==== Sys2Proof/Laws/Ops.lean ====
section
/-! SUPPORT. What each field access, commit and fetch does to each field of the state, and what each codec function
does: the lemmas later proofs cite instead of unfolding the operations. -/

namespace Sys2Proof.Machine

/-- SEQ after n events. -/
def Seq.bumps : Seq → Nat → Seq
  | .idle, _ => .idle
  | .busy k, n => .busy (k + n)
  | .resp, _ => .resp

@[simp] theorem Seq.bumps_busy (k n : Nat) : (Seq.busy k).bumps n = .busy (k + n) := rfl

@[simp] theorem Seq.bumps_zero (q : Seq) : q.bumps 0 = q := by cases q <;> rfl

@[simp] theorem Seq.bump_eq (q : Seq) : q.bump = q.bumps 1 := by cases q <;> rfl

@[simp] theorem Seq.bumps_bumps (q : Seq) (m n : Nat) : (q.bumps m).bumps n = q.bumps (m + n) := by
  cases q <;> simp [Seq.bumps, Nat.add_assoc]

/-! ### The codec and the sums -/

theorem decodeU16_toNat (b0 b1 : Byte) : (decodeU16 b0 b1).toNat = b0.toNat + 256 * b1.toNat := by
  have := b0.isLt
  rw [decodeU16, BitVec.toNat_append, Nat.shiftLeft_eq, Nat.mul_comm, ← Nat.two_pow_add_eq_or_of_lt (i := 8) this]
  omega

@[simp] theorem decodeU16_encode (v : Half) : decodeU16 (v.extractLsb' 0 8) (v.extractLsb' 8 8) = v := by
  apply BitVec.eq_of_toNat_eq
  have := v.isLt
  rw [decodeU16_toNat]; simp [BitVec.extractLsb'_toNat, Nat.shiftRight_eq_div_pow]; omega

theorem decodeU32_eq (b0 b1 b2 b3 : Byte) : decodeU32 b0 b1 b2 b3 = decodeU16 b2 b3 ++ decodeU16 b0 b1 := by
  unfold decodeU32 decodeU16
  rw [BitVec.append_assoc]
  rfl

theorem decodeU32_toNat (b0 b1 b2 b3 : Byte) :
    (decodeU32 b0 b1 b2 b3).toNat = b0.toNat + 256 * b1.toNat + 65536 * b2.toNat + 16777216 * b3.toNat := by
  have := (decodeU16 b0 b1).isLt
  rw [decodeU32_eq, BitVec.toNat_append, Nat.shiftLeft_eq, Nat.mul_comm]
  rw [← Nat.two_pow_add_eq_or_of_lt (i := 16) this]
  rw [decodeU16_toNat, decodeU16_toNat]; omega

@[simp] theorem decodeU32_encode (v : Word) :
    decodeU32 (v.extractLsb' 0 8) (v.extractLsb' 8 8) (v.extractLsb' 16 8) (v.extractLsb' 24 8) = v := by
  apply BitVec.eq_of_toNat_eq
  have := v.isLt
  rw [decodeU32_toNat]; simp [BitVec.extractLsb'_toNat, Nat.shiftRight_eq_div_pow]; omega

theorem shiftIn16_toNat (v : Half) (b : Byte) : (shiftIn16 v b).toNat = v.toNat / 256 + 256 * b.toNat := by
  have h : (v.extractLsb' 8 8).toNat < 2 ^ 8 := (v.extractLsb' 8 8).isLt
  have := v.isLt
  rw [shiftIn16, BitVec.toNat_append, Nat.shiftLeft_eq, Nat.mul_comm,
    ← Nat.two_pow_add_eq_or_of_lt (i := 8) h]
  simp [BitVec.extractLsb'_toNat, Nat.shiftRight_eq_div_pow]; omega

theorem shiftIn32_toNat (v : Word) (b : Byte) : (shiftIn32 v b).toNat = v.toNat / 256 + 16777216 * b.toNat := by
  have h : (v.extractLsb' 8 24).toNat < 2 ^ 24 := (v.extractLsb' 8 24).isLt
  have := v.isLt
  rw [shiftIn32, BitVec.toNat_append, Nat.shiftLeft_eq, Nat.mul_comm,
    ← Nat.two_pow_add_eq_or_of_lt (i := 24) h]
  simp [BitVec.extractLsb'_toNat, Nat.shiftRight_eq_div_pow]; omega

theorem shiftIn16_two (v : Half) (b0 b1 : Byte) : shiftIn16 (shiftIn16 v b0) b1 = decodeU16 b0 b1 := by
  apply BitVec.eq_of_toNat_eq
  have := v.isLt
  rw [shiftIn16_toNat, shiftIn16_toNat, decodeU16_toNat]; omega

theorem shiftIn32_four (v : Word) (b0 b1 b2 b3 : Byte) :
    shiftIn32 (shiftIn32 (shiftIn32 (shiftIn32 v b0) b1) b2) b3 = decodeU32 b0 b1 b2 b3 := by
  apply BitVec.eq_of_toNat_eq
  have := v.isLt
  rw [shiftIn32_toNat, shiftIn32_toNat, shiftIn32_toNat, shiftIn32_toNat, decodeU32_toNat]; omega

/-- A sum of two zero-extended 16-bit registers never overflows 17 bits (40_engine R110). -/
@[simp] theorem paeSum_toNat (a b : Half) : (paeSum a b).toNat = a.toNat + b.toNat := by
  have := a.isLt; have := b.isLt
  unfold paeSum; simp; omega

@[simp] theorem storedPointer_toNat (v : BitVec 17) : (storedPointer v).toNat = v.toNat % 65536 := by
  simp [storedPointer]

/-! ### Field accesses -/

@[simp] theorem State.loadBytes_1_store (s : State) (a : Nat) : (s.loadBytes a 1).store = s.store := by simp [State.loadBytes]
@[simp] theorem State.loadBytes_1_hb (s : State) (a : Nat) : (s.loadBytes a 1).hb = s.hb := by simp [State.loadBytes]
@[simp] theorem State.loadBytes_1_H (s : State) (a : Nat) : (s.loadBytes a 1).H = s.H := by simp [State.loadBytes]
@[simp] theorem State.loadBytes_1_T (s : State) (a : Nat) : (s.loadBytes a 1).T = s.T := by simp [State.loadBytes]
@[simp] theorem State.loadBytes_1_P (s : State) (a : Nat) : (s.loadBytes a 1).P = s.P := by simp [State.loadBytes]
@[simp] theorem State.loadBytes_1_F (s : State) (a : Nat) : (s.loadBytes a 1).F = s.F := by simp [State.loadBytes]
@[simp] theorem State.loadBytes_1_M (s : State) (a : Nat) : (s.loadBytes a 1).M = s.M := by simp [State.loadBytes]
@[simp] theorem State.loadBytes_1_OP (s : State) (a : Nat) : (s.loadBytes a 1).OP = s.OP := by simp [State.loadBytes]
@[simp] theorem State.loadBytes_1_RSV (s : State) (a : Nat) : (s.loadBytes a 1).RSV = s.RSV := by simp [State.loadBytes]
@[simp] theorem State.loadBytes_1_ARG (s : State) (a : Nat) : (s.loadBytes a 1).ARG = s.ARG := by simp [State.loadBytes]
@[simp] theorem State.loadBytes_1_I (s : State) (a : Nat) : (s.loadBytes a 1).I = s.I := by simp [State.loadBytes]
@[simp] theorem State.loadBytes_1_RES (s : State) (a : Nat) : (s.loadBytes a 1).RES = s.RES := by simp [State.loadBytes]
@[simp] theorem State.loadBytes_1_seq (s : State) (a : Nat) : (s.loadBytes a 1).seq = s.seq.bumps 1 := by simp [State.loadBytes]
@[simp] theorem State.loadBytes_1_point (s : State) (a : Nat) : (s.loadBytes a 1).point = s.point := by simp [State.loadBytes]
@[simp] theorem State.loadBytes_1_rspWord (s : State) (a : Nat) : (s.loadBytes a 1).rspWord = s.rspWord := by simp [State.loadBytes]
@[simp] theorem State.loadBytes_1_faultRec (s : State) (a : Nat) : (s.loadBytes a 1).faultRec = s.faultRec := by simp [State.loadBytes]
@[simp] theorem State.loadBytes_1_cmd (s : State) (a : Nat) : (s.loadBytes a 1).cmd = s.cmd := by simp [State.loadBytes]
@[simp] theorem State.loadBytes_1_rspReady (s : State) (a : Nat) : (s.loadBytes a 1).rspReady = s.rspReady := by simp [State.loadBytes]
@[simp] theorem State.loadBytes_1_rst (s : State) (a : Nat) : (s.loadBytes a 1).rst = s.rst := by simp [State.loadBytes]
@[simp] theorem State.loadBytes_1_byEvent (s : State) (a : Nat) : (s.loadBytes a 1).byEvent = s.byEvent := by simp [State.loadBytes]
@[simp] theorem State.loadBytes_1_answered (s : State) (a : Nat) : (s.loadBytes a 1).answered = s.answered := by simp [State.loadBytes]
@[simp] theorem State.loadBytes_1_log (s : State) (a : Nat) : (s.loadBytes a 1).log = .storeRead (a) (s.store.read (a)) :: s.log := by simp [State.loadBytes]

@[simp] theorem State.loadBytes_2_store (s : State) (a : Nat) : (s.loadBytes a 2).store = s.store := by simp [State.loadBytes]
@[simp] theorem State.loadBytes_2_hb (s : State) (a : Nat) : (s.loadBytes a 2).hb = s.hb := by simp [State.loadBytes]
@[simp] theorem State.loadBytes_2_H (s : State) (a : Nat) : (s.loadBytes a 2).H = s.H := by simp [State.loadBytes]
@[simp] theorem State.loadBytes_2_T (s : State) (a : Nat) : (s.loadBytes a 2).T = s.T := by simp [State.loadBytes]
@[simp] theorem State.loadBytes_2_P (s : State) (a : Nat) : (s.loadBytes a 2).P = s.P := by simp [State.loadBytes]
@[simp] theorem State.loadBytes_2_F (s : State) (a : Nat) : (s.loadBytes a 2).F = s.F := by simp [State.loadBytes]
@[simp] theorem State.loadBytes_2_M (s : State) (a : Nat) : (s.loadBytes a 2).M = s.M := by simp [State.loadBytes]
@[simp] theorem State.loadBytes_2_OP (s : State) (a : Nat) : (s.loadBytes a 2).OP = s.OP := by simp [State.loadBytes]
@[simp] theorem State.loadBytes_2_RSV (s : State) (a : Nat) : (s.loadBytes a 2).RSV = s.RSV := by simp [State.loadBytes]
@[simp] theorem State.loadBytes_2_ARG (s : State) (a : Nat) : (s.loadBytes a 2).ARG = s.ARG := by simp [State.loadBytes]
@[simp] theorem State.loadBytes_2_I (s : State) (a : Nat) : (s.loadBytes a 2).I = s.I := by simp [State.loadBytes]
@[simp] theorem State.loadBytes_2_RES (s : State) (a : Nat) : (s.loadBytes a 2).RES = s.RES := by simp [State.loadBytes]
@[simp] theorem State.loadBytes_2_seq (s : State) (a : Nat) : (s.loadBytes a 2).seq = s.seq.bumps 2 := by simp [State.loadBytes]
@[simp] theorem State.loadBytes_2_point (s : State) (a : Nat) : (s.loadBytes a 2).point = s.point := by simp [State.loadBytes]
@[simp] theorem State.loadBytes_2_rspWord (s : State) (a : Nat) : (s.loadBytes a 2).rspWord = s.rspWord := by simp [State.loadBytes]
@[simp] theorem State.loadBytes_2_faultRec (s : State) (a : Nat) : (s.loadBytes a 2).faultRec = s.faultRec := by simp [State.loadBytes]
@[simp] theorem State.loadBytes_2_cmd (s : State) (a : Nat) : (s.loadBytes a 2).cmd = s.cmd := by simp [State.loadBytes]
@[simp] theorem State.loadBytes_2_rspReady (s : State) (a : Nat) : (s.loadBytes a 2).rspReady = s.rspReady := by simp [State.loadBytes]
@[simp] theorem State.loadBytes_2_rst (s : State) (a : Nat) : (s.loadBytes a 2).rst = s.rst := by simp [State.loadBytes]
@[simp] theorem State.loadBytes_2_byEvent (s : State) (a : Nat) : (s.loadBytes a 2).byEvent = s.byEvent := by simp [State.loadBytes]
@[simp] theorem State.loadBytes_2_answered (s : State) (a : Nat) : (s.loadBytes a 2).answered = s.answered := by simp [State.loadBytes]
@[simp] theorem State.loadBytes_2_log (s : State) (a : Nat) : (s.loadBytes a 2).log = .storeRead (a + 1) (s.store.read (a + 1)) :: .storeRead (a) (s.store.read (a)) :: s.log := by simp [State.loadBytes]

@[simp] theorem State.loadBytes_4_store (s : State) (a : Nat) : (s.loadBytes a 4).store = s.store := by simp [State.loadBytes]
@[simp] theorem State.loadBytes_4_hb (s : State) (a : Nat) : (s.loadBytes a 4).hb = s.hb := by simp [State.loadBytes]
@[simp] theorem State.loadBytes_4_H (s : State) (a : Nat) : (s.loadBytes a 4).H = s.H := by simp [State.loadBytes]
@[simp] theorem State.loadBytes_4_T (s : State) (a : Nat) : (s.loadBytes a 4).T = s.T := by simp [State.loadBytes]
@[simp] theorem State.loadBytes_4_P (s : State) (a : Nat) : (s.loadBytes a 4).P = s.P := by simp [State.loadBytes]
@[simp] theorem State.loadBytes_4_F (s : State) (a : Nat) : (s.loadBytes a 4).F = s.F := by simp [State.loadBytes]
@[simp] theorem State.loadBytes_4_M (s : State) (a : Nat) : (s.loadBytes a 4).M = s.M := by simp [State.loadBytes]
@[simp] theorem State.loadBytes_4_OP (s : State) (a : Nat) : (s.loadBytes a 4).OP = s.OP := by simp [State.loadBytes]
@[simp] theorem State.loadBytes_4_RSV (s : State) (a : Nat) : (s.loadBytes a 4).RSV = s.RSV := by simp [State.loadBytes]
@[simp] theorem State.loadBytes_4_ARG (s : State) (a : Nat) : (s.loadBytes a 4).ARG = s.ARG := by simp [State.loadBytes]
@[simp] theorem State.loadBytes_4_I (s : State) (a : Nat) : (s.loadBytes a 4).I = s.I := by simp [State.loadBytes]
@[simp] theorem State.loadBytes_4_RES (s : State) (a : Nat) : (s.loadBytes a 4).RES = s.RES := by simp [State.loadBytes]
@[simp] theorem State.loadBytes_4_seq (s : State) (a : Nat) : (s.loadBytes a 4).seq = s.seq.bumps 4 := by simp [State.loadBytes]
@[simp] theorem State.loadBytes_4_point (s : State) (a : Nat) : (s.loadBytes a 4).point = s.point := by simp [State.loadBytes]
@[simp] theorem State.loadBytes_4_rspWord (s : State) (a : Nat) : (s.loadBytes a 4).rspWord = s.rspWord := by simp [State.loadBytes]
@[simp] theorem State.loadBytes_4_faultRec (s : State) (a : Nat) : (s.loadBytes a 4).faultRec = s.faultRec := by simp [State.loadBytes]
@[simp] theorem State.loadBytes_4_cmd (s : State) (a : Nat) : (s.loadBytes a 4).cmd = s.cmd := by simp [State.loadBytes]
@[simp] theorem State.loadBytes_4_rspReady (s : State) (a : Nat) : (s.loadBytes a 4).rspReady = s.rspReady := by simp [State.loadBytes]
@[simp] theorem State.loadBytes_4_rst (s : State) (a : Nat) : (s.loadBytes a 4).rst = s.rst := by simp [State.loadBytes]
@[simp] theorem State.loadBytes_4_byEvent (s : State) (a : Nat) : (s.loadBytes a 4).byEvent = s.byEvent := by simp [State.loadBytes]
@[simp] theorem State.loadBytes_4_answered (s : State) (a : Nat) : (s.loadBytes a 4).answered = s.answered := by simp [State.loadBytes]
@[simp] theorem State.loadBytes_4_log (s : State) (a : Nat) : (s.loadBytes a 4).log = .storeRead (a + 1 + 1 + 1) (s.store.read (a + 1 + 1 + 1)) :: .storeRead (a + 1 + 1) (s.store.read (a + 1 + 1)) :: .storeRead (a + 1) (s.store.read (a + 1)) :: .storeRead (a) (s.store.read (a)) :: s.log := by simp [State.loadBytes]

/-- The field addresses of this hardware (10_state R20). -/
@[simp] theorem fieldAddr_offHead : fieldAddr offHead = 0x7FE4 := rfl
@[simp] theorem fieldAddr_offTail : fieldAddr offTail = 0x7FE6 := rfl
@[simp] theorem fieldAddr_offPageSize : fieldAddr offPageSize = 0x7FE8 := rfl
@[simp] theorem fieldAddr_offFlip : fieldAddr offFlip = 0x7FEA := rfl
@[simp] theorem fieldAddr_offMagic : fieldAddr offMagic = 0x7FE0 := rfl

@[simp] theorem State.storeField8_store (s : State) (off : Nat) (v : Byte) : (s.storeField8 off v).store = s.store.write (fieldAddr off) v := by simp [State.storeField8, State.storeBytes]
@[simp] theorem State.storeField8_hb (s : State) (off : Nat) (v : Byte) : (s.storeField8 off v).hb = s.hb := by simp [State.storeField8, State.storeBytes]
@[simp] theorem State.storeField8_H (s : State) (off : Nat) (v : Byte) : (s.storeField8 off v).H = s.H := by simp [State.storeField8, State.storeBytes]
@[simp] theorem State.storeField8_T (s : State) (off : Nat) (v : Byte) : (s.storeField8 off v).T = s.T := by simp [State.storeField8, State.storeBytes]
@[simp] theorem State.storeField8_P (s : State) (off : Nat) (v : Byte) : (s.storeField8 off v).P = s.P := by simp [State.storeField8, State.storeBytes]
@[simp] theorem State.storeField8_F (s : State) (off : Nat) (v : Byte) : (s.storeField8 off v).F = s.F := by simp [State.storeField8, State.storeBytes]
@[simp] theorem State.storeField8_M (s : State) (off : Nat) (v : Byte) : (s.storeField8 off v).M = s.M := by simp [State.storeField8, State.storeBytes]
@[simp] theorem State.storeField8_OP (s : State) (off : Nat) (v : Byte) : (s.storeField8 off v).OP = s.OP := by simp [State.storeField8, State.storeBytes]
@[simp] theorem State.storeField8_RSV (s : State) (off : Nat) (v : Byte) : (s.storeField8 off v).RSV = s.RSV := by simp [State.storeField8, State.storeBytes]
@[simp] theorem State.storeField8_ARG (s : State) (off : Nat) (v : Byte) : (s.storeField8 off v).ARG = s.ARG := by simp [State.storeField8, State.storeBytes]
@[simp] theorem State.storeField8_I (s : State) (off : Nat) (v : Byte) : (s.storeField8 off v).I = s.I := by simp [State.storeField8, State.storeBytes]
@[simp] theorem State.storeField8_RES (s : State) (off : Nat) (v : Byte) : (s.storeField8 off v).RES = s.RES := by simp [State.storeField8, State.storeBytes]
@[simp] theorem State.storeField8_seq (s : State) (off : Nat) (v : Byte) : (s.storeField8 off v).seq = s.seq.bumps 1 := by simp [State.storeField8, State.storeBytes]
@[simp] theorem State.storeField8_point (s : State) (off : Nat) (v : Byte) : (s.storeField8 off v).point = s.point := by simp [State.storeField8, State.storeBytes]
@[simp] theorem State.storeField8_rspWord (s : State) (off : Nat) (v : Byte) : (s.storeField8 off v).rspWord = s.rspWord := by simp [State.storeField8, State.storeBytes]
@[simp] theorem State.storeField8_faultRec (s : State) (off : Nat) (v : Byte) : (s.storeField8 off v).faultRec = s.faultRec := by simp [State.storeField8, State.storeBytes]
@[simp] theorem State.storeField8_cmd (s : State) (off : Nat) (v : Byte) : (s.storeField8 off v).cmd = s.cmd := by simp [State.storeField8, State.storeBytes]
@[simp] theorem State.storeField8_rspReady (s : State) (off : Nat) (v : Byte) : (s.storeField8 off v).rspReady = s.rspReady := by simp [State.storeField8, State.storeBytes]
@[simp] theorem State.storeField8_rst (s : State) (off : Nat) (v : Byte) : (s.storeField8 off v).rst = s.rst := by simp [State.storeField8, State.storeBytes]
@[simp] theorem State.storeField8_byEvent (s : State) (off : Nat) (v : Byte) : (s.storeField8 off v).byEvent = s.byEvent := by simp [State.storeField8, State.storeBytes]
@[simp] theorem State.storeField8_answered (s : State) (off : Nat) (v : Byte) : (s.storeField8 off v).answered = s.answered := by simp [State.storeField8, State.storeBytes]
@[simp] theorem State.storeField8_log (s : State) (off : Nat) (v : Byte) : (s.storeField8 off v).log = .storeWrite (fieldAddr off) v :: s.log := by simp [State.storeField8, State.storeBytes]

@[simp] theorem State.storeField16_store (s : State) (off : Nat) (v : Half) : (s.storeField16 off v).store =
    (s.store.write (fieldAddr off) (v.extractLsb' 0 8)).write (fieldAddr off + 1) (v.extractLsb' 8 8) := by simp [State.storeField16, encodeU16, State.storeBytes]
@[simp] theorem State.storeField16_hb (s : State) (off : Nat) (v : Half) : (s.storeField16 off v).hb = s.hb := by simp [State.storeField16, encodeU16, State.storeBytes]
@[simp] theorem State.storeField16_H (s : State) (off : Nat) (v : Half) : (s.storeField16 off v).H = s.H := by simp [State.storeField16, encodeU16, State.storeBytes]
@[simp] theorem State.storeField16_T (s : State) (off : Nat) (v : Half) : (s.storeField16 off v).T = s.T := by simp [State.storeField16, encodeU16, State.storeBytes]
@[simp] theorem State.storeField16_P (s : State) (off : Nat) (v : Half) : (s.storeField16 off v).P = s.P := by simp [State.storeField16, encodeU16, State.storeBytes]
@[simp] theorem State.storeField16_F (s : State) (off : Nat) (v : Half) : (s.storeField16 off v).F = s.F := by simp [State.storeField16, encodeU16, State.storeBytes]
@[simp] theorem State.storeField16_M (s : State) (off : Nat) (v : Half) : (s.storeField16 off v).M = s.M := by simp [State.storeField16, encodeU16, State.storeBytes]
@[simp] theorem State.storeField16_OP (s : State) (off : Nat) (v : Half) : (s.storeField16 off v).OP = s.OP := by simp [State.storeField16, encodeU16, State.storeBytes]
@[simp] theorem State.storeField16_RSV (s : State) (off : Nat) (v : Half) : (s.storeField16 off v).RSV = s.RSV := by simp [State.storeField16, encodeU16, State.storeBytes]
@[simp] theorem State.storeField16_ARG (s : State) (off : Nat) (v : Half) : (s.storeField16 off v).ARG = s.ARG := by simp [State.storeField16, encodeU16, State.storeBytes]
@[simp] theorem State.storeField16_I (s : State) (off : Nat) (v : Half) : (s.storeField16 off v).I = s.I := by simp [State.storeField16, encodeU16, State.storeBytes]
@[simp] theorem State.storeField16_RES (s : State) (off : Nat) (v : Half) : (s.storeField16 off v).RES = s.RES := by simp [State.storeField16, encodeU16, State.storeBytes]
@[simp] theorem State.storeField16_seq (s : State) (off : Nat) (v : Half) : (s.storeField16 off v).seq = s.seq.bumps 2 := by simp [State.storeField16, encodeU16, State.storeBytes]
@[simp] theorem State.storeField16_point (s : State) (off : Nat) (v : Half) : (s.storeField16 off v).point = s.point := by simp [State.storeField16, encodeU16, State.storeBytes]
@[simp] theorem State.storeField16_rspWord (s : State) (off : Nat) (v : Half) : (s.storeField16 off v).rspWord = s.rspWord := by simp [State.storeField16, encodeU16, State.storeBytes]
@[simp] theorem State.storeField16_faultRec (s : State) (off : Nat) (v : Half) : (s.storeField16 off v).faultRec = s.faultRec := by simp [State.storeField16, encodeU16, State.storeBytes]
@[simp] theorem State.storeField16_cmd (s : State) (off : Nat) (v : Half) : (s.storeField16 off v).cmd = s.cmd := by simp [State.storeField16, encodeU16, State.storeBytes]
@[simp] theorem State.storeField16_rspReady (s : State) (off : Nat) (v : Half) : (s.storeField16 off v).rspReady = s.rspReady := by simp [State.storeField16, encodeU16, State.storeBytes]
@[simp] theorem State.storeField16_rst (s : State) (off : Nat) (v : Half) : (s.storeField16 off v).rst = s.rst := by simp [State.storeField16, encodeU16, State.storeBytes]
@[simp] theorem State.storeField16_byEvent (s : State) (off : Nat) (v : Half) : (s.storeField16 off v).byEvent = s.byEvent := by simp [State.storeField16, encodeU16, State.storeBytes]
@[simp] theorem State.storeField16_answered (s : State) (off : Nat) (v : Half) : (s.storeField16 off v).answered = s.answered := by simp [State.storeField16, encodeU16, State.storeBytes]
@[simp] theorem State.storeField16_log (s : State) (off : Nat) (v : Half) : (s.storeField16 off v).log =
    .storeWrite (fieldAddr off + 1) (v.extractLsb' 8 8) :: .storeWrite (fieldAddr off) (v.extractLsb' 0 8) :: s.log := by simp [State.storeField16, encodeU16, State.storeBytes]

@[simp] theorem State.storeField32_store (s : State) (off : Nat) (v : Word) : (s.storeField32 off v).store =
    (((s.store.write (fieldAddr off) (v.extractLsb' 0 8)).write (fieldAddr off + 1) (v.extractLsb' 8 8)).write
      (fieldAddr off + 1 + 1) (v.extractLsb' 16 8)).write (fieldAddr off + 1 + 1 + 1) (v.extractLsb' 24 8) := by simp [State.storeField32, encodeU32, State.storeBytes]
@[simp] theorem State.storeField32_hb (s : State) (off : Nat) (v : Word) : (s.storeField32 off v).hb = s.hb := by simp [State.storeField32, encodeU32, State.storeBytes]
@[simp] theorem State.storeField32_H (s : State) (off : Nat) (v : Word) : (s.storeField32 off v).H = s.H := by simp [State.storeField32, encodeU32, State.storeBytes]
@[simp] theorem State.storeField32_T (s : State) (off : Nat) (v : Word) : (s.storeField32 off v).T = s.T := by simp [State.storeField32, encodeU32, State.storeBytes]
@[simp] theorem State.storeField32_P (s : State) (off : Nat) (v : Word) : (s.storeField32 off v).P = s.P := by simp [State.storeField32, encodeU32, State.storeBytes]
@[simp] theorem State.storeField32_F (s : State) (off : Nat) (v : Word) : (s.storeField32 off v).F = s.F := by simp [State.storeField32, encodeU32, State.storeBytes]
@[simp] theorem State.storeField32_M (s : State) (off : Nat) (v : Word) : (s.storeField32 off v).M = s.M := by simp [State.storeField32, encodeU32, State.storeBytes]
@[simp] theorem State.storeField32_OP (s : State) (off : Nat) (v : Word) : (s.storeField32 off v).OP = s.OP := by simp [State.storeField32, encodeU32, State.storeBytes]
@[simp] theorem State.storeField32_RSV (s : State) (off : Nat) (v : Word) : (s.storeField32 off v).RSV = s.RSV := by simp [State.storeField32, encodeU32, State.storeBytes]
@[simp] theorem State.storeField32_ARG (s : State) (off : Nat) (v : Word) : (s.storeField32 off v).ARG = s.ARG := by simp [State.storeField32, encodeU32, State.storeBytes]
@[simp] theorem State.storeField32_I (s : State) (off : Nat) (v : Word) : (s.storeField32 off v).I = s.I := by simp [State.storeField32, encodeU32, State.storeBytes]
@[simp] theorem State.storeField32_RES (s : State) (off : Nat) (v : Word) : (s.storeField32 off v).RES = s.RES := by simp [State.storeField32, encodeU32, State.storeBytes]
@[simp] theorem State.storeField32_seq (s : State) (off : Nat) (v : Word) : (s.storeField32 off v).seq = s.seq.bumps 4 := by simp [State.storeField32, encodeU32, State.storeBytes]
@[simp] theorem State.storeField32_point (s : State) (off : Nat) (v : Word) : (s.storeField32 off v).point = s.point := by simp [State.storeField32, encodeU32, State.storeBytes]
@[simp] theorem State.storeField32_rspWord (s : State) (off : Nat) (v : Word) : (s.storeField32 off v).rspWord = s.rspWord := by simp [State.storeField32, encodeU32, State.storeBytes]
@[simp] theorem State.storeField32_faultRec (s : State) (off : Nat) (v : Word) : (s.storeField32 off v).faultRec = s.faultRec := by simp [State.storeField32, encodeU32, State.storeBytes]
@[simp] theorem State.storeField32_cmd (s : State) (off : Nat) (v : Word) : (s.storeField32 off v).cmd = s.cmd := by simp [State.storeField32, encodeU32, State.storeBytes]
@[simp] theorem State.storeField32_rspReady (s : State) (off : Nat) (v : Word) : (s.storeField32 off v).rspReady = s.rspReady := by simp [State.storeField32, encodeU32, State.storeBytes]
@[simp] theorem State.storeField32_rst (s : State) (off : Nat) (v : Word) : (s.storeField32 off v).rst = s.rst := by simp [State.storeField32, encodeU32, State.storeBytes]
@[simp] theorem State.storeField32_byEvent (s : State) (off : Nat) (v : Word) : (s.storeField32 off v).byEvent = s.byEvent := by simp [State.storeField32, encodeU32, State.storeBytes]
@[simp] theorem State.storeField32_answered (s : State) (off : Nat) (v : Word) : (s.storeField32 off v).answered = s.answered := by simp [State.storeField32, encodeU32, State.storeBytes]
@[simp] theorem State.storeField32_log (s : State) (off : Nat) (v : Word) : (s.storeField32 off v).log =
    .storeWrite (fieldAddr off + 1 + 1 + 1) (v.extractLsb' 24 8) :: .storeWrite (fieldAddr off + 1 + 1) (v.extractLsb' 16 8)
      :: .storeWrite (fieldAddr off + 1) (v.extractLsb' 8 8) :: .storeWrite (fieldAddr off) (v.extractLsb' 0 8) :: s.log := by simp [State.storeField32, encodeU32, State.storeBytes]

@[simp] theorem State.commitHead_store (s : State) (v : BitVec 17) : (s.commitHead v).store =
    (s.store.write 0x7FE4 ((storedPointer v).extractLsb' 0 8)).write 0x7FE5 ((storedPointer v).extractLsb' 8 8) := by simp [State.commitHead]
@[simp] theorem State.commitHead_hb (s : State) (v : BitVec 17) : (s.commitHead v).hb = s.hb := by simp [State.commitHead]
@[simp] theorem State.commitHead_H (s : State) (v : BitVec 17) : (s.commitHead v).H = s.H := by simp [State.commitHead]
@[simp] theorem State.commitHead_T (s : State) (v : BitVec 17) : (s.commitHead v).T = s.T := by simp [State.commitHead]
@[simp] theorem State.commitHead_P (s : State) (v : BitVec 17) : (s.commitHead v).P = s.P := by simp [State.commitHead]
@[simp] theorem State.commitHead_F (s : State) (v : BitVec 17) : (s.commitHead v).F = s.F := by simp [State.commitHead]
@[simp] theorem State.commitHead_M (s : State) (v : BitVec 17) : (s.commitHead v).M = s.M := by simp [State.commitHead]
@[simp] theorem State.commitHead_OP (s : State) (v : BitVec 17) : (s.commitHead v).OP = s.OP := by simp [State.commitHead]
@[simp] theorem State.commitHead_RSV (s : State) (v : BitVec 17) : (s.commitHead v).RSV = s.RSV := by simp [State.commitHead]
@[simp] theorem State.commitHead_ARG (s : State) (v : BitVec 17) : (s.commitHead v).ARG = s.ARG := by simp [State.commitHead]
@[simp] theorem State.commitHead_I (s : State) (v : BitVec 17) : (s.commitHead v).I = s.I := by simp [State.commitHead]
@[simp] theorem State.commitHead_RES (s : State) (v : BitVec 17) : (s.commitHead v).RES = s.RES := by simp [State.commitHead]
@[simp] theorem State.commitHead_seq (s : State) (v : BitVec 17) : (s.commitHead v).seq = s.seq.bumps 2 := by simp [State.commitHead]
@[simp] theorem State.commitHead_point (s : State) (v : BitVec 17) : (s.commitHead v).point = s.point := by simp [State.commitHead]
@[simp] theorem State.commitHead_rspWord (s : State) (v : BitVec 17) : (s.commitHead v).rspWord = s.rspWord := by simp [State.commitHead]
@[simp] theorem State.commitHead_faultRec (s : State) (v : BitVec 17) : (s.commitHead v).faultRec = s.faultRec := by simp [State.commitHead]
@[simp] theorem State.commitHead_cmd (s : State) (v : BitVec 17) : (s.commitHead v).cmd = s.cmd := by simp [State.commitHead]
@[simp] theorem State.commitHead_rspReady (s : State) (v : BitVec 17) : (s.commitHead v).rspReady = s.rspReady := by simp [State.commitHead]
@[simp] theorem State.commitHead_rst (s : State) (v : BitVec 17) : (s.commitHead v).rst = s.rst := by simp [State.commitHead]
@[simp] theorem State.commitHead_byEvent (s : State) (v : BitVec 17) : (s.commitHead v).byEvent = s.byEvent := by simp [State.commitHead]
@[simp] theorem State.commitHead_answered (s : State) (v : BitVec 17) : (s.commitHead v).answered = s.answered := by simp [State.commitHead]
@[simp] theorem State.commitHead_log (s : State) (v : BitVec 17) : (s.commitHead v).log =
    .storeWrite 0x7FE5 ((storedPointer v).extractLsb' 8 8) :: .storeWrite 0x7FE4 ((storedPointer v).extractLsb' 0 8) :: s.log := by simp [State.commitHead]

@[simp] theorem State.commitTail_store (s : State) (v : BitVec 17) : (s.commitTail v).store =
    (s.store.write 0x7FE6 ((storedPointer v).extractLsb' 0 8)).write 0x7FE7 ((storedPointer v).extractLsb' 8 8) := by simp [State.commitTail]
@[simp] theorem State.commitTail_hb (s : State) (v : BitVec 17) : (s.commitTail v).hb = s.hb := by simp [State.commitTail]
@[simp] theorem State.commitTail_H (s : State) (v : BitVec 17) : (s.commitTail v).H = s.H := by simp [State.commitTail]
@[simp] theorem State.commitTail_T (s : State) (v : BitVec 17) : (s.commitTail v).T = s.T := by simp [State.commitTail]
@[simp] theorem State.commitTail_P (s : State) (v : BitVec 17) : (s.commitTail v).P = s.P := by simp [State.commitTail]
@[simp] theorem State.commitTail_F (s : State) (v : BitVec 17) : (s.commitTail v).F = s.F := by simp [State.commitTail]
@[simp] theorem State.commitTail_M (s : State) (v : BitVec 17) : (s.commitTail v).M = s.M := by simp [State.commitTail]
@[simp] theorem State.commitTail_OP (s : State) (v : BitVec 17) : (s.commitTail v).OP = s.OP := by simp [State.commitTail]
@[simp] theorem State.commitTail_RSV (s : State) (v : BitVec 17) : (s.commitTail v).RSV = s.RSV := by simp [State.commitTail]
@[simp] theorem State.commitTail_ARG (s : State) (v : BitVec 17) : (s.commitTail v).ARG = s.ARG := by simp [State.commitTail]
@[simp] theorem State.commitTail_I (s : State) (v : BitVec 17) : (s.commitTail v).I = s.I := by simp [State.commitTail]
@[simp] theorem State.commitTail_RES (s : State) (v : BitVec 17) : (s.commitTail v).RES = s.RES := by simp [State.commitTail]
@[simp] theorem State.commitTail_seq (s : State) (v : BitVec 17) : (s.commitTail v).seq = s.seq.bumps 2 := by simp [State.commitTail]
@[simp] theorem State.commitTail_point (s : State) (v : BitVec 17) : (s.commitTail v).point = s.point := by simp [State.commitTail]
@[simp] theorem State.commitTail_rspWord (s : State) (v : BitVec 17) : (s.commitTail v).rspWord = s.rspWord := by simp [State.commitTail]
@[simp] theorem State.commitTail_faultRec (s : State) (v : BitVec 17) : (s.commitTail v).faultRec = s.faultRec := by simp [State.commitTail]
@[simp] theorem State.commitTail_cmd (s : State) (v : BitVec 17) : (s.commitTail v).cmd = s.cmd := by simp [State.commitTail]
@[simp] theorem State.commitTail_rspReady (s : State) (v : BitVec 17) : (s.commitTail v).rspReady = s.rspReady := by simp [State.commitTail]
@[simp] theorem State.commitTail_rst (s : State) (v : BitVec 17) : (s.commitTail v).rst = s.rst := by simp [State.commitTail]
@[simp] theorem State.commitTail_byEvent (s : State) (v : BitVec 17) : (s.commitTail v).byEvent = s.byEvent := by simp [State.commitTail]
@[simp] theorem State.commitTail_answered (s : State) (v : BitVec 17) : (s.commitTail v).answered = s.answered := by simp [State.commitTail]
@[simp] theorem State.commitTail_log (s : State) (v : BitVec 17) : (s.commitTail v).log =
    .storeWrite 0x7FE7 ((storedPointer v).extractLsb' 8 8) :: .storeWrite 0x7FE6 ((storedPointer v).extractLsb' 0 8) :: s.log := by simp [State.commitTail]

@[simp] theorem State.wrapHead_store (s : State) : (s.wrapHead).store = ((s.store.write 0x7FE4 0).write 0x7FE5 0).write 0x7FEA 0x01 := by simp [State.wrapHead, flipSet]
@[simp] theorem State.wrapHead_hb (s : State) : (s.wrapHead).hb = s.hb := by simp [State.wrapHead]
@[simp] theorem State.wrapHead_H (s : State) : (s.wrapHead).H = 0 := by simp [State.wrapHead]
@[simp] theorem State.wrapHead_T (s : State) : (s.wrapHead).T = s.T := by simp [State.wrapHead]
@[simp] theorem State.wrapHead_P (s : State) : (s.wrapHead).P = s.P := by simp [State.wrapHead]
@[simp] theorem State.wrapHead_F (s : State) : (s.wrapHead).F = 0x01 := by simp [State.wrapHead, flipSet]
@[simp] theorem State.wrapHead_M (s : State) : (s.wrapHead).M = s.M := by simp [State.wrapHead]
@[simp] theorem State.wrapHead_OP (s : State) : (s.wrapHead).OP = s.OP := by simp [State.wrapHead]
@[simp] theorem State.wrapHead_RSV (s : State) : (s.wrapHead).RSV = s.RSV := by simp [State.wrapHead]
@[simp] theorem State.wrapHead_ARG (s : State) : (s.wrapHead).ARG = s.ARG := by simp [State.wrapHead]
@[simp] theorem State.wrapHead_I (s : State) : (s.wrapHead).I = s.I := by simp [State.wrapHead]
@[simp] theorem State.wrapHead_RES (s : State) : (s.wrapHead).RES = s.RES := by simp [State.wrapHead]
@[simp] theorem State.wrapHead_seq (s : State) : (s.wrapHead).seq = s.seq.bumps 3 := by simp [State.wrapHead]
@[simp] theorem State.wrapHead_point (s : State) : (s.wrapHead).point = s.point := by simp [State.wrapHead]
@[simp] theorem State.wrapHead_rspWord (s : State) : (s.wrapHead).rspWord = s.rspWord := by simp [State.wrapHead]
@[simp] theorem State.wrapHead_faultRec (s : State) : (s.wrapHead).faultRec = s.faultRec := by simp [State.wrapHead]
@[simp] theorem State.wrapHead_cmd (s : State) : (s.wrapHead).cmd = s.cmd := by simp [State.wrapHead]
@[simp] theorem State.wrapHead_rspReady (s : State) : (s.wrapHead).rspReady = s.rspReady := by simp [State.wrapHead]
@[simp] theorem State.wrapHead_rst (s : State) : (s.wrapHead).rst = s.rst := by simp [State.wrapHead]
@[simp] theorem State.wrapHead_byEvent (s : State) : (s.wrapHead).byEvent = s.byEvent := by simp [State.wrapHead]
@[simp] theorem State.wrapHead_answered (s : State) : (s.wrapHead).answered = s.answered := by simp [State.wrapHead]
@[simp] theorem State.wrapHead_log (s : State) : (s.wrapHead).log =
    .storeWrite 0x7FEA 0x01 :: .storeWrite 0x7FE5 0 :: .storeWrite 0x7FE4 0 :: s.log := by simp [State.wrapHead, flipSet]

@[simp] theorem State.wrapTail_store (s : State) : (s.wrapTail).store = ((s.store.write 0x7FE6 0).write 0x7FE7 0).write 0x7FEA 0x00 := by simp [State.wrapTail, flipClear]
@[simp] theorem State.wrapTail_hb (s : State) : (s.wrapTail).hb = s.hb := by simp [State.wrapTail]
@[simp] theorem State.wrapTail_H (s : State) : (s.wrapTail).H = s.H := by simp [State.wrapTail]
@[simp] theorem State.wrapTail_T (s : State) : (s.wrapTail).T = 0 := by simp [State.wrapTail]
@[simp] theorem State.wrapTail_P (s : State) : (s.wrapTail).P = s.P := by simp [State.wrapTail]
@[simp] theorem State.wrapTail_F (s : State) : (s.wrapTail).F = 0x00 := by simp [State.wrapTail, flipClear]
@[simp] theorem State.wrapTail_M (s : State) : (s.wrapTail).M = s.M := by simp [State.wrapTail]
@[simp] theorem State.wrapTail_OP (s : State) : (s.wrapTail).OP = s.OP := by simp [State.wrapTail]
@[simp] theorem State.wrapTail_RSV (s : State) : (s.wrapTail).RSV = s.RSV := by simp [State.wrapTail]
@[simp] theorem State.wrapTail_ARG (s : State) : (s.wrapTail).ARG = s.ARG := by simp [State.wrapTail]
@[simp] theorem State.wrapTail_I (s : State) : (s.wrapTail).I = s.I := by simp [State.wrapTail]
@[simp] theorem State.wrapTail_RES (s : State) : (s.wrapTail).RES = s.RES := by simp [State.wrapTail]
@[simp] theorem State.wrapTail_seq (s : State) : (s.wrapTail).seq = s.seq.bumps 3 := by simp [State.wrapTail]
@[simp] theorem State.wrapTail_point (s : State) : (s.wrapTail).point = s.point := by simp [State.wrapTail]
@[simp] theorem State.wrapTail_rspWord (s : State) : (s.wrapTail).rspWord = s.rspWord := by simp [State.wrapTail]
@[simp] theorem State.wrapTail_faultRec (s : State) : (s.wrapTail).faultRec = s.faultRec := by simp [State.wrapTail]
@[simp] theorem State.wrapTail_cmd (s : State) : (s.wrapTail).cmd = s.cmd := by simp [State.wrapTail]
@[simp] theorem State.wrapTail_rspReady (s : State) : (s.wrapTail).rspReady = s.rspReady := by simp [State.wrapTail]
@[simp] theorem State.wrapTail_rst (s : State) : (s.wrapTail).rst = s.rst := by simp [State.wrapTail]
@[simp] theorem State.wrapTail_byEvent (s : State) : (s.wrapTail).byEvent = s.byEvent := by simp [State.wrapTail]
@[simp] theorem State.wrapTail_answered (s : State) : (s.wrapTail).answered = s.answered := by simp [State.wrapTail]
@[simp] theorem State.wrapTail_log (s : State) : (s.wrapTail).log =
    .storeWrite 0x7FEA 0x00 :: .storeWrite 0x7FE7 0 :: .storeWrite 0x7FE6 0 :: s.log := by simp [State.wrapTail, flipClear]

@[simp] theorem State.fetchHead_store (s : State) : (s.fetchHead).store = s.store := by simp [State.fetchHead]
@[simp] theorem State.fetchHead_hb (s : State) : (s.fetchHead).hb = s.hb := by simp [State.fetchHead]
@[simp] theorem State.fetchHead_H (s : State) : (s.fetchHead).H = s.head := by simp [State.fetchHead]
@[simp] theorem State.fetchHead_T (s : State) : (s.fetchHead).T = s.T := by simp [State.fetchHead]
@[simp] theorem State.fetchHead_P (s : State) : (s.fetchHead).P = s.P := by simp [State.fetchHead]
@[simp] theorem State.fetchHead_F (s : State) : (s.fetchHead).F = s.F := by simp [State.fetchHead]
@[simp] theorem State.fetchHead_M (s : State) : (s.fetchHead).M = s.M := by simp [State.fetchHead]
@[simp] theorem State.fetchHead_OP (s : State) : (s.fetchHead).OP = s.OP := by simp [State.fetchHead]
@[simp] theorem State.fetchHead_RSV (s : State) : (s.fetchHead).RSV = s.RSV := by simp [State.fetchHead]
@[simp] theorem State.fetchHead_ARG (s : State) : (s.fetchHead).ARG = s.ARG := by simp [State.fetchHead]
@[simp] theorem State.fetchHead_I (s : State) : (s.fetchHead).I = s.I := by simp [State.fetchHead]
@[simp] theorem State.fetchHead_RES (s : State) : (s.fetchHead).RES = s.RES := by simp [State.fetchHead]
@[simp] theorem State.fetchHead_seq (s : State) : (s.fetchHead).seq = s.seq.bumps 2 := by simp [State.fetchHead]
@[simp] theorem State.fetchHead_point (s : State) : (s.fetchHead).point = s.point := by simp [State.fetchHead]
@[simp] theorem State.fetchHead_rspWord (s : State) : (s.fetchHead).rspWord = s.rspWord := by simp [State.fetchHead]
@[simp] theorem State.fetchHead_faultRec (s : State) : (s.fetchHead).faultRec = s.faultRec := by simp [State.fetchHead]
@[simp] theorem State.fetchHead_cmd (s : State) : (s.fetchHead).cmd = s.cmd := by simp [State.fetchHead]
@[simp] theorem State.fetchHead_rspReady (s : State) : (s.fetchHead).rspReady = s.rspReady := by simp [State.fetchHead]
@[simp] theorem State.fetchHead_rst (s : State) : (s.fetchHead).rst = s.rst := by simp [State.fetchHead]
@[simp] theorem State.fetchHead_byEvent (s : State) : (s.fetchHead).byEvent = s.byEvent := by simp [State.fetchHead]
@[simp] theorem State.fetchHead_answered (s : State) : (s.fetchHead).answered = s.answered := by simp [State.fetchHead]
@[simp] theorem State.fetchHead_log (s : State) : (s.fetchHead).log =
    .storeRead 0x7FE5 (s.store.read 0x7FE5) :: .storeRead 0x7FE4 (s.store.read 0x7FE4) :: s.log := by simp [State.fetchHead]

@[simp] theorem State.fetchTail_store (s : State) : (s.fetchTail).store = s.store := by simp [State.fetchTail]
@[simp] theorem State.fetchTail_hb (s : State) : (s.fetchTail).hb = s.hb := by simp [State.fetchTail]
@[simp] theorem State.fetchTail_H (s : State) : (s.fetchTail).H = s.H := by simp [State.fetchTail]
@[simp] theorem State.fetchTail_T (s : State) : (s.fetchTail).T = s.tail := by simp [State.fetchTail]
@[simp] theorem State.fetchTail_P (s : State) : (s.fetchTail).P = s.P := by simp [State.fetchTail]
@[simp] theorem State.fetchTail_F (s : State) : (s.fetchTail).F = s.F := by simp [State.fetchTail]
@[simp] theorem State.fetchTail_M (s : State) : (s.fetchTail).M = s.M := by simp [State.fetchTail]
@[simp] theorem State.fetchTail_OP (s : State) : (s.fetchTail).OP = s.OP := by simp [State.fetchTail]
@[simp] theorem State.fetchTail_RSV (s : State) : (s.fetchTail).RSV = s.RSV := by simp [State.fetchTail]
@[simp] theorem State.fetchTail_ARG (s : State) : (s.fetchTail).ARG = s.ARG := by simp [State.fetchTail]
@[simp] theorem State.fetchTail_I (s : State) : (s.fetchTail).I = s.I := by simp [State.fetchTail]
@[simp] theorem State.fetchTail_RES (s : State) : (s.fetchTail).RES = s.RES := by simp [State.fetchTail]
@[simp] theorem State.fetchTail_seq (s : State) : (s.fetchTail).seq = s.seq.bumps 2 := by simp [State.fetchTail]
@[simp] theorem State.fetchTail_point (s : State) : (s.fetchTail).point = s.point := by simp [State.fetchTail]
@[simp] theorem State.fetchTail_rspWord (s : State) : (s.fetchTail).rspWord = s.rspWord := by simp [State.fetchTail]
@[simp] theorem State.fetchTail_faultRec (s : State) : (s.fetchTail).faultRec = s.faultRec := by simp [State.fetchTail]
@[simp] theorem State.fetchTail_cmd (s : State) : (s.fetchTail).cmd = s.cmd := by simp [State.fetchTail]
@[simp] theorem State.fetchTail_rspReady (s : State) : (s.fetchTail).rspReady = s.rspReady := by simp [State.fetchTail]
@[simp] theorem State.fetchTail_rst (s : State) : (s.fetchTail).rst = s.rst := by simp [State.fetchTail]
@[simp] theorem State.fetchTail_byEvent (s : State) : (s.fetchTail).byEvent = s.byEvent := by simp [State.fetchTail]
@[simp] theorem State.fetchTail_answered (s : State) : (s.fetchTail).answered = s.answered := by simp [State.fetchTail]
@[simp] theorem State.fetchTail_log (s : State) : (s.fetchTail).log =
    .storeRead 0x7FE7 (s.store.read 0x7FE7) :: .storeRead 0x7FE6 (s.store.read 0x7FE6) :: s.log := by simp [State.fetchTail]

@[simp] theorem State.fetchPageSize_store (s : State) : (s.fetchPageSize).store = s.store := by simp [State.fetchPageSize]
@[simp] theorem State.fetchPageSize_hb (s : State) : (s.fetchPageSize).hb = s.hb := by simp [State.fetchPageSize]
@[simp] theorem State.fetchPageSize_H (s : State) : (s.fetchPageSize).H = s.H := by simp [State.fetchPageSize]
@[simp] theorem State.fetchPageSize_T (s : State) : (s.fetchPageSize).T = s.T := by simp [State.fetchPageSize]
@[simp] theorem State.fetchPageSize_P (s : State) : (s.fetchPageSize).P = s.pageSize := by simp [State.fetchPageSize]
@[simp] theorem State.fetchPageSize_F (s : State) : (s.fetchPageSize).F = s.F := by simp [State.fetchPageSize]
@[simp] theorem State.fetchPageSize_M (s : State) : (s.fetchPageSize).M = s.M := by simp [State.fetchPageSize]
@[simp] theorem State.fetchPageSize_OP (s : State) : (s.fetchPageSize).OP = s.OP := by simp [State.fetchPageSize]
@[simp] theorem State.fetchPageSize_RSV (s : State) : (s.fetchPageSize).RSV = s.RSV := by simp [State.fetchPageSize]
@[simp] theorem State.fetchPageSize_ARG (s : State) : (s.fetchPageSize).ARG = s.ARG := by simp [State.fetchPageSize]
@[simp] theorem State.fetchPageSize_I (s : State) : (s.fetchPageSize).I = s.I := by simp [State.fetchPageSize]
@[simp] theorem State.fetchPageSize_RES (s : State) : (s.fetchPageSize).RES = s.RES := by simp [State.fetchPageSize]
@[simp] theorem State.fetchPageSize_seq (s : State) : (s.fetchPageSize).seq = s.seq.bumps 2 := by simp [State.fetchPageSize]
@[simp] theorem State.fetchPageSize_point (s : State) : (s.fetchPageSize).point = s.point := by simp [State.fetchPageSize]
@[simp] theorem State.fetchPageSize_rspWord (s : State) : (s.fetchPageSize).rspWord = s.rspWord := by simp [State.fetchPageSize]
@[simp] theorem State.fetchPageSize_faultRec (s : State) : (s.fetchPageSize).faultRec = s.faultRec := by simp [State.fetchPageSize]
@[simp] theorem State.fetchPageSize_cmd (s : State) : (s.fetchPageSize).cmd = s.cmd := by simp [State.fetchPageSize]
@[simp] theorem State.fetchPageSize_rspReady (s : State) : (s.fetchPageSize).rspReady = s.rspReady := by simp [State.fetchPageSize]
@[simp] theorem State.fetchPageSize_rst (s : State) : (s.fetchPageSize).rst = s.rst := by simp [State.fetchPageSize]
@[simp] theorem State.fetchPageSize_byEvent (s : State) : (s.fetchPageSize).byEvent = s.byEvent := by simp [State.fetchPageSize]
@[simp] theorem State.fetchPageSize_answered (s : State) : (s.fetchPageSize).answered = s.answered := by simp [State.fetchPageSize]
@[simp] theorem State.fetchPageSize_log (s : State) : (s.fetchPageSize).log =
    .storeRead 0x7FE9 (s.store.read 0x7FE9) :: .storeRead 0x7FE8 (s.store.read 0x7FE8) :: s.log := by simp [State.fetchPageSize]

@[simp] theorem State.fetchFlip_store (s : State) : (s.fetchFlip).store = s.store := by simp [State.fetchFlip]
@[simp] theorem State.fetchFlip_hb (s : State) : (s.fetchFlip).hb = s.hb := by simp [State.fetchFlip]
@[simp] theorem State.fetchFlip_H (s : State) : (s.fetchFlip).H = s.H := by simp [State.fetchFlip]
@[simp] theorem State.fetchFlip_T (s : State) : (s.fetchFlip).T = s.T := by simp [State.fetchFlip]
@[simp] theorem State.fetchFlip_P (s : State) : (s.fetchFlip).P = s.P := by simp [State.fetchFlip]
@[simp] theorem State.fetchFlip_F (s : State) : (s.fetchFlip).F = s.flip := by simp [State.fetchFlip]
@[simp] theorem State.fetchFlip_M (s : State) : (s.fetchFlip).M = s.M := by simp [State.fetchFlip]
@[simp] theorem State.fetchFlip_OP (s : State) : (s.fetchFlip).OP = s.OP := by simp [State.fetchFlip]
@[simp] theorem State.fetchFlip_RSV (s : State) : (s.fetchFlip).RSV = s.RSV := by simp [State.fetchFlip]
@[simp] theorem State.fetchFlip_ARG (s : State) : (s.fetchFlip).ARG = s.ARG := by simp [State.fetchFlip]
@[simp] theorem State.fetchFlip_I (s : State) : (s.fetchFlip).I = s.I := by simp [State.fetchFlip]
@[simp] theorem State.fetchFlip_RES (s : State) : (s.fetchFlip).RES = s.RES := by simp [State.fetchFlip]
@[simp] theorem State.fetchFlip_seq (s : State) : (s.fetchFlip).seq = s.seq.bumps 1 := by simp [State.fetchFlip]
@[simp] theorem State.fetchFlip_point (s : State) : (s.fetchFlip).point = s.point := by simp [State.fetchFlip]
@[simp] theorem State.fetchFlip_rspWord (s : State) : (s.fetchFlip).rspWord = s.rspWord := by simp [State.fetchFlip]
@[simp] theorem State.fetchFlip_faultRec (s : State) : (s.fetchFlip).faultRec = s.faultRec := by simp [State.fetchFlip]
@[simp] theorem State.fetchFlip_cmd (s : State) : (s.fetchFlip).cmd = s.cmd := by simp [State.fetchFlip]
@[simp] theorem State.fetchFlip_rspReady (s : State) : (s.fetchFlip).rspReady = s.rspReady := by simp [State.fetchFlip]
@[simp] theorem State.fetchFlip_rst (s : State) : (s.fetchFlip).rst = s.rst := by simp [State.fetchFlip]
@[simp] theorem State.fetchFlip_byEvent (s : State) : (s.fetchFlip).byEvent = s.byEvent := by simp [State.fetchFlip]
@[simp] theorem State.fetchFlip_answered (s : State) : (s.fetchFlip).answered = s.answered := by simp [State.fetchFlip]
@[simp] theorem State.fetchFlip_log (s : State) : (s.fetchFlip).log = .storeRead 0x7FEA (s.store.read 0x7FEA) :: s.log := by simp [State.fetchFlip]

@[simp] theorem State.fetchMagic_store (s : State) : (s.fetchMagic).store = s.store := by simp [State.fetchMagic]
@[simp] theorem State.fetchMagic_hb (s : State) : (s.fetchMagic).hb = s.hb := by simp [State.fetchMagic]
@[simp] theorem State.fetchMagic_H (s : State) : (s.fetchMagic).H = s.H := by simp [State.fetchMagic]
@[simp] theorem State.fetchMagic_T (s : State) : (s.fetchMagic).T = s.T := by simp [State.fetchMagic]
@[simp] theorem State.fetchMagic_P (s : State) : (s.fetchMagic).P = s.P := by simp [State.fetchMagic]
@[simp] theorem State.fetchMagic_F (s : State) : (s.fetchMagic).F = s.F := by simp [State.fetchMagic]
@[simp] theorem State.fetchMagic_M (s : State) : (s.fetchMagic).M = s.magic := by simp [State.fetchMagic]
@[simp] theorem State.fetchMagic_OP (s : State) : (s.fetchMagic).OP = s.OP := by simp [State.fetchMagic]
@[simp] theorem State.fetchMagic_RSV (s : State) : (s.fetchMagic).RSV = s.RSV := by simp [State.fetchMagic]
@[simp] theorem State.fetchMagic_ARG (s : State) : (s.fetchMagic).ARG = s.ARG := by simp [State.fetchMagic]
@[simp] theorem State.fetchMagic_I (s : State) : (s.fetchMagic).I = s.I := by simp [State.fetchMagic]
@[simp] theorem State.fetchMagic_RES (s : State) : (s.fetchMagic).RES = s.RES := by simp [State.fetchMagic]
@[simp] theorem State.fetchMagic_seq (s : State) : (s.fetchMagic).seq = s.seq.bumps 4 := by simp [State.fetchMagic]
@[simp] theorem State.fetchMagic_point (s : State) : (s.fetchMagic).point = s.point := by simp [State.fetchMagic]
@[simp] theorem State.fetchMagic_rspWord (s : State) : (s.fetchMagic).rspWord = s.rspWord := by simp [State.fetchMagic]
@[simp] theorem State.fetchMagic_faultRec (s : State) : (s.fetchMagic).faultRec = s.faultRec := by simp [State.fetchMagic]
@[simp] theorem State.fetchMagic_cmd (s : State) : (s.fetchMagic).cmd = s.cmd := by simp [State.fetchMagic]
@[simp] theorem State.fetchMagic_rspReady (s : State) : (s.fetchMagic).rspReady = s.rspReady := by simp [State.fetchMagic]
@[simp] theorem State.fetchMagic_rst (s : State) : (s.fetchMagic).rst = s.rst := by simp [State.fetchMagic]
@[simp] theorem State.fetchMagic_byEvent (s : State) : (s.fetchMagic).byEvent = s.byEvent := by simp [State.fetchMagic]
@[simp] theorem State.fetchMagic_answered (s : State) : (s.fetchMagic).answered = s.answered := by simp [State.fetchMagic]
@[simp] theorem State.fetchMagic_log (s : State) : (s.fetchMagic).log =
    .storeRead 0x7FE3 (s.store.read 0x7FE3) :: .storeRead 0x7FE2 (s.store.read 0x7FE2) :: .storeRead 0x7FE1 (s.store.read 0x7FE1) :: .storeRead 0x7FE0 (s.store.read 0x7FE0) :: s.log := by simp [State.fetchMagic]

@[simp] theorem State.fetchMeta_store (s : State) : (s.fetchMeta).store = s.store := by simp [State.fetchMeta]
@[simp] theorem State.fetchMeta_hb (s : State) : (s.fetchMeta).hb = s.hb := by simp [State.fetchMeta]
@[simp] theorem State.fetchMeta_H (s : State) : (s.fetchMeta).H = s.head := by simp [State.fetchMeta]
@[simp] theorem State.fetchMeta_T (s : State) : (s.fetchMeta).T = s.tail := by simp [State.fetchMeta, State.tail]
@[simp] theorem State.fetchMeta_P (s : State) : (s.fetchMeta).P = s.pageSize := by simp [State.fetchMeta, State.pageSize]
@[simp] theorem State.fetchMeta_F (s : State) : (s.fetchMeta).F = s.flip := by simp [State.fetchMeta, State.flip]
@[simp] theorem State.fetchMeta_M (s : State) : (s.fetchMeta).M = s.M := by simp [State.fetchMeta]
@[simp] theorem State.fetchMeta_OP (s : State) : (s.fetchMeta).OP = s.OP := by simp [State.fetchMeta]
@[simp] theorem State.fetchMeta_RSV (s : State) : (s.fetchMeta).RSV = s.RSV := by simp [State.fetchMeta]
@[simp] theorem State.fetchMeta_ARG (s : State) : (s.fetchMeta).ARG = s.ARG := by simp [State.fetchMeta]
@[simp] theorem State.fetchMeta_I (s : State) : (s.fetchMeta).I = s.I := by simp [State.fetchMeta]
@[simp] theorem State.fetchMeta_RES (s : State) : (s.fetchMeta).RES = s.RES := by simp [State.fetchMeta]
@[simp] theorem State.fetchMeta_seq (s : State) : (s.fetchMeta).seq = s.seq.bumps 7 := by simp [State.fetchMeta]
@[simp] theorem State.fetchMeta_point (s : State) : (s.fetchMeta).point = s.point := by simp [State.fetchMeta]
@[simp] theorem State.fetchMeta_rspWord (s : State) : (s.fetchMeta).rspWord = s.rspWord := by simp [State.fetchMeta]
@[simp] theorem State.fetchMeta_faultRec (s : State) : (s.fetchMeta).faultRec = s.faultRec := by simp [State.fetchMeta]
@[simp] theorem State.fetchMeta_cmd (s : State) : (s.fetchMeta).cmd = s.cmd := by simp [State.fetchMeta]
@[simp] theorem State.fetchMeta_rspReady (s : State) : (s.fetchMeta).rspReady = s.rspReady := by simp [State.fetchMeta]
@[simp] theorem State.fetchMeta_rst (s : State) : (s.fetchMeta).rst = s.rst := by simp [State.fetchMeta]
@[simp] theorem State.fetchMeta_byEvent (s : State) : (s.fetchMeta).byEvent = s.byEvent := by simp [State.fetchMeta]
@[simp] theorem State.fetchMeta_answered (s : State) : (s.fetchMeta).answered = s.answered := by simp [State.fetchMeta]
@[simp] theorem State.fetchMeta_log (s : State) : (s.fetchMeta).log =
    .storeRead 0x7FEA (s.store.read 0x7FEA) :: .storeRead 0x7FE9 (s.store.read 0x7FE9) :: .storeRead 0x7FE8 (s.store.read 0x7FE8) :: .storeRead 0x7FE7 (s.store.read 0x7FE7) :: .storeRead 0x7FE6 (s.store.read 0x7FE6) :: .storeRead 0x7FE5 (s.store.read 0x7FE5) :: .storeRead 0x7FE4 (s.store.read 0x7FE4) :: s.log := by simp [State.fetchMeta]

/-! ### The persisted fields under operations that do not write the store -/

@[simp] theorem State.issue_head (s : State) (e : Event) : (s.issue e).head = s.head := by simp [State.head]
@[simp] theorem State.issue_tail (s : State) (e : Event) : (s.issue e).tail = s.tail := by simp [State.tail]
@[simp] theorem State.issue_pageSize (s : State) (e : Event) : (s.issue e).pageSize = s.pageSize := by simp [State.pageSize]
@[simp] theorem State.issue_flip (s : State) (e : Event) : (s.issue e).flip = s.flip := by simp [State.flip]
@[simp] theorem State.issue_magic (s : State) (e : Event) : (s.issue e).magic = s.magic := by simp [State.magic]

@[simp] theorem State.setH_head (s : State) (v : Half) : (s.setH v).head = s.head := by simp [State.head]
@[simp] theorem State.setH_tail (s : State) (v : Half) : (s.setH v).tail = s.tail := by simp [State.tail]
@[simp] theorem State.setH_pageSize (s : State) (v : Half) : (s.setH v).pageSize = s.pageSize := by simp [State.pageSize]
@[simp] theorem State.setH_flip (s : State) (v : Half) : (s.setH v).flip = s.flip := by simp [State.flip]
@[simp] theorem State.setH_magic (s : State) (v : Half) : (s.setH v).magic = s.magic := by simp [State.magic]

@[simp] theorem State.setT_head (s : State) (v : Half) : (s.setT v).head = s.head := by simp [State.head]
@[simp] theorem State.setT_tail (s : State) (v : Half) : (s.setT v).tail = s.tail := by simp [State.tail]
@[simp] theorem State.setT_pageSize (s : State) (v : Half) : (s.setT v).pageSize = s.pageSize := by simp [State.pageSize]
@[simp] theorem State.setT_flip (s : State) (v : Half) : (s.setT v).flip = s.flip := by simp [State.flip]
@[simp] theorem State.setT_magic (s : State) (v : Half) : (s.setT v).magic = s.magic := by simp [State.magic]

@[simp] theorem State.setP_head (s : State) (v : Half) : (s.setP v).head = s.head := by simp [State.head]
@[simp] theorem State.setP_tail (s : State) (v : Half) : (s.setP v).tail = s.tail := by simp [State.tail]
@[simp] theorem State.setP_pageSize (s : State) (v : Half) : (s.setP v).pageSize = s.pageSize := by simp [State.pageSize]
@[simp] theorem State.setP_flip (s : State) (v : Half) : (s.setP v).flip = s.flip := by simp [State.flip]
@[simp] theorem State.setP_magic (s : State) (v : Half) : (s.setP v).magic = s.magic := by simp [State.magic]

@[simp] theorem State.setF_head (s : State) (v : Byte) : (s.setF v).head = s.head := by simp [State.head]
@[simp] theorem State.setF_tail (s : State) (v : Byte) : (s.setF v).tail = s.tail := by simp [State.tail]
@[simp] theorem State.setF_pageSize (s : State) (v : Byte) : (s.setF v).pageSize = s.pageSize := by simp [State.pageSize]
@[simp] theorem State.setF_flip (s : State) (v : Byte) : (s.setF v).flip = s.flip := by simp [State.flip]
@[simp] theorem State.setF_magic (s : State) (v : Byte) : (s.setF v).magic = s.magic := by simp [State.magic]

@[simp] theorem State.setM_head (s : State) (v : Word) : (s.setM v).head = s.head := by simp [State.head]
@[simp] theorem State.setM_tail (s : State) (v : Word) : (s.setM v).tail = s.tail := by simp [State.tail]
@[simp] theorem State.setM_pageSize (s : State) (v : Word) : (s.setM v).pageSize = s.pageSize := by simp [State.pageSize]
@[simp] theorem State.setM_flip (s : State) (v : Word) : (s.setM v).flip = s.flip := by simp [State.flip]
@[simp] theorem State.setM_magic (s : State) (v : Word) : (s.setM v).magic = s.magic := by simp [State.magic]

@[simp] theorem State.setI_head (s : State) (v : Half) : (s.setI v).head = s.head := by simp [State.head]
@[simp] theorem State.setI_tail (s : State) (v : Half) : (s.setI v).tail = s.tail := by simp [State.tail]
@[simp] theorem State.setI_pageSize (s : State) (v : Half) : (s.setI v).pageSize = s.pageSize := by simp [State.pageSize]
@[simp] theorem State.setI_flip (s : State) (v : Half) : (s.setI v).flip = s.flip := by simp [State.flip]
@[simp] theorem State.setI_magic (s : State) (v : Half) : (s.setI v).magic = s.magic := by simp [State.magic]

@[simp] theorem State.setPoint_head (s : State) (p : Point) : (s.setPoint p).head = s.head := by simp [State.head]
@[simp] theorem State.setPoint_tail (s : State) (p : Point) : (s.setPoint p).tail = s.tail := by simp [State.tail]
@[simp] theorem State.setPoint_pageSize (s : State) (p : Point) : (s.setPoint p).pageSize = s.pageSize := by simp [State.pageSize]
@[simp] theorem State.setPoint_flip (s : State) (p : Point) : (s.setPoint p).flip = s.flip := by simp [State.flip]
@[simp] theorem State.setPoint_magic (s : State) (p : Point) : (s.setPoint p).magic = s.magic := by simp [State.magic]

@[simp] theorem State.storeRead_head (s : State) (a : Nat) : (s.storeRead a).head = s.head := by simp [State.head]
@[simp] theorem State.storeRead_tail (s : State) (a : Nat) : (s.storeRead a).tail = s.tail := by simp [State.tail]
@[simp] theorem State.storeRead_pageSize (s : State) (a : Nat) : (s.storeRead a).pageSize = s.pageSize := by simp [State.pageSize]
@[simp] theorem State.storeRead_flip (s : State) (a : Nat) : (s.storeRead a).flip = s.flip := by simp [State.flip]
@[simp] theorem State.storeRead_magic (s : State) (a : Nat) : (s.storeRead a).magic = s.magic := by simp [State.magic]

@[simp] theorem State.hbRead_head (s : State) (i : Nat) : (s.hbRead i).head = s.head := by simp [State.head]
@[simp] theorem State.hbRead_tail (s : State) (i : Nat) : (s.hbRead i).tail = s.tail := by simp [State.tail]
@[simp] theorem State.hbRead_pageSize (s : State) (i : Nat) : (s.hbRead i).pageSize = s.pageSize := by simp [State.pageSize]
@[simp] theorem State.hbRead_flip (s : State) (i : Nat) : (s.hbRead i).flip = s.flip := by simp [State.flip]
@[simp] theorem State.hbRead_magic (s : State) (i : Nat) : (s.hbRead i).magic = s.magic := by simp [State.magic]

@[simp] theorem State.hbWrite_head (s : State) (i : Nat) (v : Byte) : (s.hbWrite i v).head = s.head := by simp [State.head]
@[simp] theorem State.hbWrite_tail (s : State) (i : Nat) (v : Byte) : (s.hbWrite i v).tail = s.tail := by simp [State.tail]
@[simp] theorem State.hbWrite_pageSize (s : State) (i : Nat) (v : Byte) : (s.hbWrite i v).pageSize = s.pageSize := by simp [State.pageSize]
@[simp] theorem State.hbWrite_flip (s : State) (i : Nat) (v : Byte) : (s.hbWrite i v).flip = s.flip := by simp [State.flip]
@[simp] theorem State.hbWrite_magic (s : State) (i : Nat) (v : Byte) : (s.hbWrite i v).magic = s.magic := by simp [State.magic]

@[simp] theorem State.accept_head (s : State) (w : Word) : (s.accept w).head = s.head := by simp [State.head]
@[simp] theorem State.accept_tail (s : State) (w : Word) : (s.accept w).tail = s.tail := by simp [State.tail]
@[simp] theorem State.accept_pageSize (s : State) (w : Word) : (s.accept w).pageSize = s.pageSize := by simp [State.pageSize]
@[simp] theorem State.accept_flip (s : State) (w : Word) : (s.accept w).flip = s.flip := by simp [State.flip]
@[simp] theorem State.accept_magic (s : State) (w : Word) : (s.accept w).magic = s.magic := by simp [State.magic]

@[simp] theorem State.respond_head (s : State) (st : Status) (r : Bool) : (s.respond st r).head = s.head := by simp [State.head]
@[simp] theorem State.respond_tail (s : State) (st : Status) (r : Bool) : (s.respond st r).tail = s.tail := by simp [State.tail]
@[simp] theorem State.respond_pageSize (s : State) (st : Status) (r : Bool) : (s.respond st r).pageSize = s.pageSize := by simp [State.pageSize]
@[simp] theorem State.respond_flip (s : State) (st : Status) (r : Bool) : (s.respond st r).flip = s.flip := by simp [State.flip]
@[simp] theorem State.respond_magic (s : State) (st : Status) (r : Bool) : (s.respond st r).magic = s.magic := by simp [State.magic]

@[simp] theorem State.takeResponse_head (s : State) : (s.takeResponse).head = s.head := by simp [State.head]
@[simp] theorem State.takeResponse_tail (s : State) : (s.takeResponse).tail = s.tail := by simp [State.tail]
@[simp] theorem State.takeResponse_pageSize (s : State) : (s.takeResponse).pageSize = s.pageSize := by simp [State.pageSize]
@[simp] theorem State.takeResponse_flip (s : State) : (s.takeResponse).flip = s.flip := by simp [State.flip]
@[simp] theorem State.takeResponse_magic (s : State) : (s.takeResponse).magic = s.magic := by simp [State.magic]

@[simp] theorem State.resetEngine_head (s : State) : (s.resetEngine).head = s.head := by simp [State.head]
@[simp] theorem State.resetEngine_tail (s : State) : (s.resetEngine).tail = s.tail := by simp [State.tail]
@[simp] theorem State.resetEngine_pageSize (s : State) : (s.resetEngine).pageSize = s.pageSize := by simp [State.pageSize]
@[simp] theorem State.resetEngine_flip (s : State) : (s.resetEngine).flip = s.flip := by simp [State.flip]
@[simp] theorem State.resetEngine_magic (s : State) : (s.resetEngine).magic = s.magic := by simp [State.magic]

@[simp] theorem State.fetchMeta_head (s : State) : (s.fetchMeta).head = s.head := by simp [State.head]
@[simp] theorem State.fetchMeta_tail (s : State) : (s.fetchMeta).tail = s.tail := by simp [State.tail]
@[simp] theorem State.fetchMeta_pageSize (s : State) : (s.fetchMeta).pageSize = s.pageSize := by simp [State.pageSize]
@[simp] theorem State.fetchMeta_flip (s : State) : (s.fetchMeta).flip = s.flip := by simp [State.flip]
@[simp] theorem State.fetchMeta_magic (s : State) : (s.fetchMeta).magic = s.magic := by simp [State.magic]

@[simp] theorem State.fetchMagic_head (s : State) : (s.fetchMagic).head = s.head := by simp [State.head]
@[simp] theorem State.fetchMagic_tail (s : State) : (s.fetchMagic).tail = s.tail := by simp [State.tail]
@[simp] theorem State.fetchMagic_pageSize (s : State) : (s.fetchMagic).pageSize = s.pageSize := by simp [State.pageSize]
@[simp] theorem State.fetchMagic_flip (s : State) : (s.fetchMagic).flip = s.flip := by simp [State.flip]
@[simp] theorem State.fetchMagic_magic (s : State) : (s.fetchMagic).magic = s.magic := by simp [State.magic]

@[simp] theorem State.takeRecordByte_store (s : State) (len : Half) (i : Nat) :
    (s.takeRecordByte len i).store = s.store := by unfold State.takeRecordByte; split <;> rfl
@[simp] theorem State.takeRecordByte_hb (s : State) (len : Half) (i : Nat) :
    (s.takeRecordByte len i).hb = s.hb := by unfold State.takeRecordByte; split <;> rfl
@[simp] theorem State.takeRecordByte_H (s : State) (len : Half) (i : Nat) :
    (s.takeRecordByte len i).H = s.H := by unfold State.takeRecordByte; split <;> rfl
@[simp] theorem State.takeRecordByte_T (s : State) (len : Half) (i : Nat) :
    (s.takeRecordByte len i).T = s.T := by unfold State.takeRecordByte; split <;> rfl
@[simp] theorem State.takeRecordByte_P (s : State) (len : Half) (i : Nat) :
    (s.takeRecordByte len i).P = s.P := by unfold State.takeRecordByte; split <;> rfl
@[simp] theorem State.takeRecordByte_F (s : State) (len : Half) (i : Nat) :
    (s.takeRecordByte len i).F = s.F := by unfold State.takeRecordByte; split <;> rfl
@[simp] theorem State.takeRecordByte_M (s : State) (len : Half) (i : Nat) :
    (s.takeRecordByte len i).M = s.M := by unfold State.takeRecordByte; split <;> rfl
@[simp] theorem State.takeRecordByte_OP (s : State) (len : Half) (i : Nat) :
    (s.takeRecordByte len i).OP = s.OP := by unfold State.takeRecordByte; split <;> rfl
@[simp] theorem State.takeRecordByte_RSV (s : State) (len : Half) (i : Nat) :
    (s.takeRecordByte len i).RSV = s.RSV := by unfold State.takeRecordByte; split <;> rfl
@[simp] theorem State.takeRecordByte_ARG (s : State) (len : Half) (i : Nat) :
    (s.takeRecordByte len i).ARG = s.ARG := by unfold State.takeRecordByte; split <;> rfl
@[simp] theorem State.takeRecordByte_I (s : State) (len : Half) (i : Nat) :
    (s.takeRecordByte len i).I = s.I := by unfold State.takeRecordByte; split <;> rfl
@[simp] theorem State.takeRecordByte_RES (s : State) (len : Half) (i : Nat) :
    (s.takeRecordByte len i).RES = s.RES := by unfold State.takeRecordByte; split <;> rfl
@[simp] theorem State.takeRecordByte_point (s : State) (len : Half) (i : Nat) :
    (s.takeRecordByte len i).point = s.point := by unfold State.takeRecordByte; split <;> rfl
@[simp] theorem State.takeRecordByte_rspWord (s : State) (len : Half) (i : Nat) :
    (s.takeRecordByte len i).rspWord = s.rspWord := by unfold State.takeRecordByte; split <;> rfl
@[simp] theorem State.takeRecordByte_faultRec (s : State) (len : Half) (i : Nat) :
    (s.takeRecordByte len i).faultRec = s.faultRec := by unfold State.takeRecordByte; split <;> rfl
@[simp] theorem State.takeRecordByte_cmd (s : State) (len : Half) (i : Nat) :
    (s.takeRecordByte len i).cmd = s.cmd := by unfold State.takeRecordByte; split <;> rfl
@[simp] theorem State.takeRecordByte_rspReady (s : State) (len : Half) (i : Nat) :
    (s.takeRecordByte len i).rspReady = s.rspReady := by unfold State.takeRecordByte; split <;> rfl
@[simp] theorem State.takeRecordByte_rst (s : State) (len : Half) (i : Nat) :
    (s.takeRecordByte len i).rst = s.rst := by unfold State.takeRecordByte; split <;> rfl
@[simp] theorem State.takeRecordByte_byEvent (s : State) (len : Half) (i : Nat) :
    (s.takeRecordByte len i).byEvent = s.byEvent := by unfold State.takeRecordByte; split <;> rfl
@[simp] theorem State.takeRecordByte_answered (s : State) (len : Half) (i : Nat) :
    (s.takeRecordByte len i).answered = s.answered := by unfold State.takeRecordByte; split <;> rfl

end Sys2Proof.Machine
end

