-- ==== Sys2Proof/Laws/Transfer.lean ====
section
/-! SUPPORT. What the page transfers do: the events they issue, the bytes they move, and when they fault. -/

namespace Sys2Proof.Machine

theorem replay_append (m : Memory) (newer older : List Event) :
    replay m (newer ++ older) = replay (replay m older) newer := by
  induction newer with
  | nil => rfl
  | cons e es ih => cases e <;> simp [replay, ih]

theorem replay_wf {m : Memory} (h : m.wf) (es : List Event) : (replay m es).wf := by
  induction es with
  | nil => exact h
  | cons e es ih => cases e <;> simp only [replay] <;> first | exact Memory.write_wf ih _ _ | exact ih

/-- The events of PutPage's bytes i, ..., i + n - 1, oldest first. -/
def putEventsFrom (hb : Memory) (len : Half) (base i n : Nat) : List Event :=
  (List.range' i n).flatMap (putEvent hb len base)

/-- The events of GetPage's bytes i, ..., i + n - 1, oldest first. -/
def getEventsFrom (m : Memory) (base i n : Nat) : List Event := (List.range' i n).flatMap (getEvent m base)

theorem putEventsFrom_zero (hb : Memory) (len : Half) (base n : Nat) :
    putEventsFrom hb len base 0 n = putEvents hb len base n := by
  rw [putEventsFrom, putEvents, List.range_eq_range']

theorem getEventsFrom_zero (m : Memory) (base n : Nat) : getEventsFrom m base 0 n = getEvents m base n := by
  rw [getEventsFrom, getEvents, List.range_eq_range']

theorem putEventsFrom_succ (hb : Memory) (len : Half) (base i n : Nat) :
    putEventsFrom hb len base i (n + 1) = putEvent hb len base i ++ putEventsFrom hb len base (i + 1) n := by
  simp [putEventsFrom, List.range'_succ]

theorem getEventsFrom_succ (m : Memory) (base i n : Nat) :
    getEventsFrom m base i (n + 1) = getEvent m base i ++ getEventsFrom m base (i + 1) n := by
  simp [getEventsFrom, List.range'_succ]

/-- The state a page write's byte i leaves: its index, its events, its store byte. -/
theorem putByte_eq (s : State) (base len : Half) (i : Nat) :
    ((s.setI (BitVec.ofNat 16 i)).takeRecordByte len i).storeWrite (pageAddr base i) (recordByte s.hb len i)
      = { s with
          store := s.store.write (pageAddr base i) (recordByte s.hb len i),
          I := BitVec.ofNat 16 i,
          log := (putEvent s.hb len base.toNat i).reverse ++ s.log,
          seq := s.seq.bumps (putEvent s.hb len base.toNat i).length } := by
  unfold State.takeRecordByte putEvent
  split <;> simp [State.storeWrite, State.hbRead, State.issue, State.setI, pageAddr]

/-- The state a page read's byte i leaves: its index, its events, its HB byte. -/
theorem getByte_eq (s : State) (base : Half) (i : Nat) :
    ((s.setI (BitVec.ofNat 16 i)).storeRead (pageAddr base i)).hbWrite i (s.store.read (pageAddr base i))
      = { s with
          hb := s.hb.write i (s.store.read (pageAddr base i)),
          I := BitVec.ofNat 16 i,
          log := (getEvent s.store base.toNat i).reverse ++ s.log,
          seq := s.seq.bumps (getEvent s.store base.toNat i).length } := by
  simp [State.storeRead, State.hbWrite, State.issue, State.setI, getEvent, pageAddr]

/-- PutPage inside the store: it answers, changes the store, I, SEQ and the log only, and performs exactly the writes
of its events. -/
theorem putBytes_next (base len : Half) (n i : Nat) (s : State)
    (h : n = 0 ∨ base.toNat + i + n ≤ Config.capacity) :
    ∃ t, State.putBytes base len n i s = .next t
      ∧ t = { s with store := t.store, I := t.I, log := t.log, seq := t.seq }
      ∧ t.store = replay s.store (putEventsFrom s.hb len base.toNat i n).reverse
      ∧ t.log = (putEventsFrom s.hb len base.toNat i n).reverse ++ s.log
      ∧ t.seq = s.seq.bumps (putEventsFrom s.hb len base.toNat i n).length
      ∧ t.I = if n = 0 then s.I else BitVec.ofNat 16 (i + n - 1) := by
  induction n generalizing i s with
  | zero => exact ⟨s, rfl, rfl, rfl, rfl, by simp [putEventsFrom], rfl⟩
  | succ n ih =>
    have hlt : pageAddr base i < Config.capacity := by unfold pageAddr; omega
    simp only [State.putBytes, if_pos hlt]
    rw [putByte_eq]
    obtain ⟨t, ht, hall, hstore, hlog, hseq, hI⟩ := ih (i + 1)
      { s with
          store := s.store.write (pageAddr base i) (recordByte s.hb len i),
          I := BitVec.ofNat 16 i,
          log := (putEvent s.hb len base.toNat i).reverse ++ s.log,
          seq := s.seq.bumps (putEvent s.hb len base.toNat i).length } (by omega)
    refine ⟨t, ht, ?_, ?_, ?_, ?_, ?_⟩
    · rw [hall]
    · rw [hstore, putEventsFrom_succ, List.reverse_append, replay_append]
      congr 1
      unfold putEvent pageAddr
      split <;> simp [replay]
    · rw [hlog, putEventsFrom_succ]; simp
    · rw [hseq, putEventsFrom_succ]; simp
    · rw [hI]
      split
      · subst_vars; simp
      · simp

/-- GetPage inside the store: it answers, changes HB, I, SEQ and the log only, and HB takes the bytes of the page. -/
theorem getBytes_next (base : Half) (n i : Nat) (s : State)
    (h : n = 0 ∨ base.toNat + i + n ≤ Config.capacity) :
    ∃ t, State.getBytes base n i s = .next t
      ∧ t = { s with hb := t.hb, I := t.I, log := t.log, seq := t.seq }
      ∧ (∀ j, t.hb.read j = if i ≤ j ∧ j < i + n then s.store.read (base.toNat + j) else s.hb.read j)
      ∧ t.log = (getEventsFrom s.store base.toNat i n).reverse ++ s.log
      ∧ t.seq = s.seq.bumps (getEventsFrom s.store base.toNat i n).length
      ∧ t.I = (if n = 0 then s.I else BitVec.ofNat 16 (i + n - 1))
      ∧ (s.hb.wf → t.hb.wf) ∧ (i + n ≤ hbSize → Memory.below hbSize s.hb → Memory.below hbSize t.hb) := by
  induction n generalizing i s with
  | zero =>
    refine ⟨s, rfl, rfl, fun j => ?_, rfl, by simp [getEventsFrom], rfl, id, fun _ => id⟩
    rw [if_neg (by omega)]
  | succ n ih =>
    have hlt : pageAddr base i < Config.capacity := by unfold pageAddr; omega
    simp only [State.getBytes, if_pos hlt]
    rw [getByte_eq]
    obtain ⟨t, ht, hall, hhb, hlog, hseq, hI, hwf, hbelow⟩ := ih (i + 1)
      { s with
          hb := s.hb.write i (s.store.read (pageAddr base i)),
          I := BitVec.ofNat 16 i,
          log := (getEvent s.store base.toNat i).reverse ++ s.log,
          seq := s.seq.bumps (getEvent s.store base.toNat i).length } (by omega)
    refine ⟨t, ht, ?_, fun j => ?_, ?_, ?_, ?_, fun hw => hwf (Memory.write_wf hw _ _), fun hle hb =>
      hbelow (by omega) (Memory.write_below hb (by omega) _)⟩
    · rw [hall]
    · rw [hhb j, Memory.read_write]
      by_cases hj : j = i
      · subst hj
        rw [if_neg (by omega), if_pos rfl, if_pos (by omega), pageAddr]
      · rw [if_neg hj]
        by_cases hr : i + 1 ≤ j ∧ j < i + 1 + n
        · rw [if_pos hr, if_pos (by omega)]
        · rw [if_neg hr, if_neg (by omega)]
    · rw [hlog, getEventsFrom_succ]; simp
    · rw [hseq, getEventsFrom_succ]; simp
    · rw [hI]
      split
      · subst_vars; simp
      · simp

/-- PutPage (20_memory R61), when its page is inside the store. -/
theorem putPage_next (s : State) (base len : Half) (h : fits base s.P) :
    ∃ t, s.putPage base len = .next t
      ∧ t = { s with store := t.store, I := t.I, log := t.log, seq := t.seq }
      ∧ t.store = replay s.store (putEvents s.hb len base.toNat s.P.toNat).reverse
      ∧ t.log = (putEvents s.hb len base.toNat s.P.toNat).reverse ++ s.log
      ∧ t.seq = s.seq.bumps (putEvents s.hb len base.toNat s.P.toNat).length
      ∧ t.I = BitVec.ofNat 16 (s.P.toNat - 1) := by
  obtain ⟨t, ht, hall, hstore, hlog, hseq, hI⟩ := putBytes_next base len s.P.toNat 0 (s.setI 0)
    (h.imp (fun h => by rw [h]; rfl) (fun h => by omega))
  rw [putEventsFrom_zero] at hstore hlog hseq
  refine ⟨t, ht, hall, hstore, hlog, hseq, ?_⟩
  rw [hI]
  split
  · rename_i h0; rw [State.setI_I, h0]; rfl
  · rw [Nat.zero_add]

/-- GetPage (20_memory R61), when its page is inside the store. -/
theorem getPage_next (s : State) (base : Half) (h : fits base s.P) :
    ∃ t, s.getPage base = .next t
      ∧ t = { s with hb := t.hb, I := t.I, log := t.log, seq := t.seq }
      ∧ (∀ j, t.hb.read j = if j < s.P.toNat then s.store.read (base.toNat + j) else s.hb.read j)
      ∧ t.log = (getEvents s.store base.toNat s.P.toNat).reverse ++ s.log
      ∧ t.seq = s.seq.bumps (getEvents s.store base.toNat s.P.toNat).length
      ∧ t.I = BitVec.ofNat 16 (s.P.toNat - 1)
      ∧ (s.hb.wf → t.hb.wf) ∧ (Memory.below hbSize s.hb → Memory.below hbSize t.hb) := by
  obtain ⟨t, ht, hall, hhb, hlog, hseq, hI, hwf, hbelow⟩ := getBytes_next base s.P.toNat 0 (s.setI 0)
    (h.imp (fun h => by rw [h]; rfl) (fun h => by omega))
  rw [getEventsFrom_zero] at hlog hseq
  have hP : 0 + s.P.toNat ≤ hbSize := by have := s.P.isLt; unfold hbSize; omega
  refine ⟨t, ht, hall, fun j => ?_, hlog, hseq, ?_, hwf, hbelow hP⟩
  · rw [hhb j]; simp
  · rw [hI]
    split
    · rename_i h0; rw [State.setI_I, h0]; rfl
    · rw [Nat.zero_add]

/-- The store after PutPage's writes: the page holds the record's bytes, every other byte is as before. -/
theorem read_replay_putEventsFrom (m hb : Memory) (len : Half) (base i n a : Nat) :
    (replay m (putEventsFrom hb len base i n).reverse).read a
      = if base + i ≤ a ∧ a < base + i + n then recordByte hb len (a - base) else m.read a := by
  induction n generalizing i m with
  | zero => rw [if_neg (by omega)]; simp [putEventsFrom, replay]
  | succ n ih =>
    rw [putEventsFrom_succ, List.reverse_append, replay_append, ih]
    have hb' : (replay m (putEvent hb len base i).reverse) = m.write (base + i) (recordByte hb len i) := by
      unfold putEvent; split <;> simp [replay]
    rw [hb', Memory.read_write]
    by_cases ha : a = base + i
    · subst ha
      rw [if_neg (by omega), if_pos rfl, if_pos (by omega)]
      congr 1; omega
    · rw [if_neg ha]
      by_cases hr : base + (i + 1) ≤ a ∧ a < base + (i + 1) + n
      · rw [if_pos hr, if_pos (by omega)]
      · rw [if_neg hr, if_neg (by omega)]

/-- The HB read of the byte that faults (20_memory R61: it precedes the store access). -/
def faultEvent (hb : Memory) (len : Half) (i : Nat) : List Event :=
  if i < len.toNat then [Event.hbRead i (hb.read i)] else []

/-- PutPage past C: it faults at the first address at or above C, after every byte below it. `k` is the number of bytes
it has moved. -/
theorem putBytes_fault (base len : Half) (k n i : Nat) (s : State) (hk : k < n)
    (hin : k = 0 ∨ base.toNat + i + k ≤ Config.capacity) (hout : Config.capacity ≤ base.toNat + i + k) :
    ∃ l, State.putBytes base len n i s = .fault (.storeRange (base.toNat + i + k) l)
      ∧ l = { s with
          store := replay s.store (putEventsFrom s.hb len base.toNat i k).reverse,
          I := BitVec.ofNat 16 (i + k),
          log := (faultEvent s.hb len (i + k)) ++ (putEventsFrom s.hb len base.toNat i k).reverse ++ s.log,
          seq := s.seq.bumps ((putEventsFrom s.hb len base.toNat i k).length + (faultEvent s.hb len (i + k)).length),
          faultRec := some (base.toNat + i + k), point := .rest } := by
  induction k generalizing i n s with
  | zero =>
    obtain ⟨n, rfl⟩ : ∃ m, n = m + 1 := ⟨n - 1, by omega⟩
    have hge : ¬ pageAddr base i < Config.capacity := by unfold pageAddr; omega
    simp only [State.putBytes, if_neg hge]
    refine ⟨_, rfl, ?_⟩
    unfold State.takeRecordByte faultEvent
    by_cases h : i < len.toNat <;> simp [h, State.hbRead, State.issue, State.setI, pageAddr, putEventsFrom, replay]
  | succ k ih =>
    obtain ⟨n, rfl⟩ : ∃ m, n = m + 1 := ⟨n - 1, by omega⟩
    have hlt : pageAddr base i < Config.capacity := by unfold pageAddr; omega
    simp only [State.putBytes, if_pos hlt]
    rw [putByte_eq]
    obtain ⟨l, hl, heq⟩ := ih n (i + 1)
      { s with
          store := s.store.write (pageAddr base i) (recordByte s.hb len i),
          I := BitVec.ofNat 16 i,
          log := (putEvent s.hb len base.toNat i).reverse ++ s.log,
          seq := s.seq.bumps (putEvent s.hb len base.toNat i).length } (by omega) (by omega) (by omega)
    refine ⟨l, ?_, ?_⟩
    · rw [hl]; congr 2; omega
    · rw [heq, putEventsFrom_succ, List.reverse_append, replay_append]
      have hb' : (replay s.store (putEvent s.hb len base.toNat i).reverse)
          = s.store.write (base.toNat + i) (recordByte s.hb len i) := by
        unfold putEvent; split <;> simp [replay]
      rw [hb']
      have hi : i + 1 + k = i + (k + 1) := by omega
      have hbi : base.toNat + (i + 1) + k = base.toNat + i + (k + 1) := by omega
      simp [hi, pageAddr, Nat.add_assoc, Nat.add_comm, Nat.add_left_comm]

/-- GetPage past C: it faults at the first address at or above C, after every byte below it. -/
theorem getBytes_fault (base : Half) (k n i : Nat) (s : State) (hk : k < n)
    (hin : k = 0 ∨ base.toNat + i + k ≤ Config.capacity) (hout : Config.capacity ≤ base.toNat + i + k) :
    ∃ l, State.getBytes base n i s = .fault (.storeRange (base.toNat + i + k) l)
      ∧ l = { s with hb := l.hb, I := l.I, log := l.log, seq := l.seq, faultRec := some (base.toNat + i + k), point := .rest }
      ∧ (∀ j, l.hb.read j = if i ≤ j ∧ j < i + k then s.store.read (base.toNat + j) else s.hb.read j)
      ∧ l.log = (getEventsFrom s.store base.toNat i k).reverse ++ s.log
      ∧ l.seq = s.seq.bumps (getEventsFrom s.store base.toNat i k).length := by
  induction k generalizing i n s with
  | zero =>
    obtain ⟨n, rfl⟩ : ∃ m, n = m + 1 := ⟨n - 1, by omega⟩
    have hge : ¬ pageAddr base i < Config.capacity := by unfold pageAddr; omega
    simp only [State.getBytes, if_neg hge]
    refine ⟨_, rfl, by simp [State.setI, pageAddr], fun j => ?_, by simp [getEventsFrom], by simp [getEventsFrom]⟩
    rw [if_neg (by omega)]; rfl
  | succ k ih =>
    obtain ⟨n, rfl⟩ : ∃ m, n = m + 1 := ⟨n - 1, by omega⟩
    have hlt : pageAddr base i < Config.capacity := by unfold pageAddr; omega
    simp only [State.getBytes, if_pos hlt]
    rw [getByte_eq]
    obtain ⟨l, hl, hall, hhb, hlog, hseq⟩ := ih n (i + 1)
      { s with
          hb := s.hb.write i (s.store.read (pageAddr base i)),
          I := BitVec.ofNat 16 i,
          log := (getEvent s.store base.toNat i).reverse ++ s.log,
          seq := s.seq.bumps (getEvent s.store base.toNat i).length } (by omega) (by omega) (by omega)
    have hbi : base.toNat + (i + 1) + k = base.toNat + i + (k + 1) := by omega
    refine ⟨l, ?_, ?_, fun j => ?_, ?_, ?_⟩
    · rw [hl, hbi]
    · rw [hall, hbi]
    · rw [hhb j, Memory.read_write]
      by_cases hj : j = i
      · subst hj
        rw [if_neg (by omega), if_pos rfl, if_pos (by omega), pageAddr]
      · rw [if_neg hj]
        by_cases hr : i + 1 ≤ j ∧ j < i + 1 + k
        · rw [if_pos hr, if_pos (by omega)]
        · rw [if_neg hr, if_neg (by omega)]
    · rw [hlog, getEventsFrom_succ]; simp
    · rw [hseq, getEventsFrom_succ]; simp

/-- PutPage (20_memory R61, 60_exceptions R215), when its page reaches past the store. -/
theorem putPage_fault (s : State) (base len : Half) (h : ¬ fits base s.P) :
    ∃ l, s.putPage base len = .fault (.storeRange (max base.toNat Config.capacity) l)
      ∧ l = { s with
          store := replay s.store (putEvents s.hb len base.toNat (Config.capacity - base.toNat)).reverse,
          I := BitVec.ofNat 16 (Config.capacity - base.toNat),
          log := faultEvent s.hb len (Config.capacity - base.toNat)
            ++ (putEvents s.hb len base.toNat (Config.capacity - base.toNat)).reverse ++ s.log,
          seq := s.seq.bumps ((putEvents s.hb len base.toNat (Config.capacity - base.toNat)).length
            + (faultEvent s.hb len (Config.capacity - base.toNat)).length),
          faultRec := some (max base.toNat Config.capacity), point := .rest } := by
  rw [fits, not_or, ← BitVec.toNat_inj] at h
  have h0 : (0 : Half).toNat = 0 := rfl
  obtain ⟨l, hl, heq⟩ := putBytes_fault base len (Config.capacity - base.toNat) s.P.toNat 0 (s.setI 0)
    (by omega) (by omega) (by omega)
  have hm : base.toNat + 0 + (Config.capacity - base.toNat) = max base.toNat Config.capacity := by omega
  rw [hm] at hl heq
  refine ⟨l, hl, ?_⟩
  rw [heq, putEventsFrom_zero, Nat.zero_add]
  rfl

/-- GetPage (20_memory R61, 60_exceptions R215), when its page reaches past the store. -/
theorem getPage_fault (s : State) (base : Half) (h : ¬ fits base s.P) :
    ∃ l, s.getPage base = .fault (.storeRange (max base.toNat Config.capacity) l)
      ∧ l = { s with hb := l.hb, I := l.I, log := l.log, seq := l.seq,
                     faultRec := some (max base.toNat Config.capacity), point := .rest }
      ∧ (∀ j, l.hb.read j = if j < Config.capacity - base.toNat then s.store.read (base.toNat + j) else s.hb.read j)
      ∧ l.log = (getEvents s.store base.toNat (Config.capacity - base.toNat)).reverse ++ s.log
      ∧ l.seq = s.seq.bumps (getEvents s.store base.toNat (Config.capacity - base.toNat)).length := by
  rw [fits, not_or, ← BitVec.toNat_inj] at h
  have h0 : (0 : Half).toNat = 0 := rfl
  obtain ⟨l, hl, heq, hhb, hlog, hseq⟩ := getBytes_fault base (Config.capacity - base.toNat) s.P.toNat 0 (s.setI 0)
    (by omega) (by omega) (by omega)
  have hm : base.toNat + 0 + (Config.capacity - base.toNat) = max base.toNat Config.capacity := by omega
  rw [hm] at hl heq
  rw [getEventsFrom_zero] at hlog hseq
  refine ⟨l, hl, heq, fun j => ?_, hlog, hseq⟩
  rw [hhb j]; simp

end Sys2Proof.Machine
end

