-- ==== Sys2Proof/Laws/Exec.lean ====
section
/-! SUPPORT. Each meaning over the persisted fields: the leaf a WRITE or a READ takes is decided by the fields in the
store, and the fetched state is the accepted one with H, T, P and F loaded. -/

namespace Sys2Proof.Machine

/-- The state after accepting a command and fetching the metadata (40_engine R101, R104). -/
def State.fetched (s : State) (i : Instr) : State := (s.accept (encode i)).fetchMeta

@[simp] theorem State.fetched_store (s : State) (i : Instr) : (s.fetched i).store = s.store := by simp [State.fetched]
@[simp] theorem State.fetched_hb (s : State) (i : Instr) : (s.fetched i).hb = s.hb := by simp [State.fetched]
@[simp] theorem State.fetched_H (s : State) (i : Instr) : (s.fetched i).H = s.head := by simp [State.fetched]
@[simp] theorem State.fetched_T (s : State) (i : Instr) : (s.fetched i).T = s.tail := by simp [State.fetched]
@[simp] theorem State.fetched_P (s : State) (i : Instr) : (s.fetched i).P = s.pageSize := by simp [State.fetched]
@[simp] theorem State.fetched_F (s : State) (i : Instr) : (s.fetched i).F = s.flip := by simp [State.fetched]
@[simp] theorem State.fetched_M (s : State) (i : Instr) : (s.fetched i).M = s.M := by simp [State.fetched]
@[simp] theorem State.fetched_OP (s : State) (i : Instr) : (s.fetched i).OP = i.opcode := by simp [State.fetched]
@[simp] theorem State.fetched_RSV (s : State) (i : Instr) : (s.fetched i).RSV = 0 := by simp [State.fetched]
@[simp] theorem State.fetched_ARG (s : State) (i : Instr) : (s.fetched i).ARG = i.arg := by simp [State.fetched]
@[simp] theorem State.fetched_I (s : State) (i : Instr) : (s.fetched i).I = s.I := by simp [State.fetched]
@[simp] theorem State.fetched_RES (s : State) (i : Instr) : (s.fetched i).RES = s.RES := by simp [State.fetched]
@[simp] theorem State.fetched_seq (s : State) (i : Instr) : (s.fetched i).seq = .busy 7 := by simp [State.fetched]
@[simp] theorem State.fetched_point (s : State) (i : Instr) : (s.fetched i).point = .rest := by simp [State.fetched]
@[simp] theorem State.fetched_rspWord (s : State) (i : Instr) : (s.fetched i).rspWord = s.rspWord := by simp [State.fetched]
@[simp] theorem State.fetched_faultRec (s : State) (i : Instr) : (s.fetched i).faultRec = s.faultRec := by simp [State.fetched]
@[simp] theorem State.fetched_cmd (s : State) (i : Instr) : (s.fetched i).cmd = none := by simp [State.fetched]
@[simp] theorem State.fetched_rspReady (s : State) (i : Instr) : (s.fetched i).rspReady = s.rspReady := by simp [State.fetched]
@[simp] theorem State.fetched_rst (s : State) (i : Instr) : (s.fetched i).rst = s.rst := by simp [State.fetched]
@[simp] theorem State.fetched_byEvent (s : State) (i : Instr) : (s.fetched i).byEvent = s.byEvent := by simp [State.fetched]
@[simp] theorem State.fetched_answered (s : State) (i : Instr) : (s.fetched i).answered = s.answered := by simp [State.fetched]
@[simp] theorem State.fetched_log (s : State) (i : Instr) : (s.fetched i).log = (fetchEvents s.store).reverse := by
  simp [State.fetched, fetchEvents, readEvents, List.range_succ]

/-- The low byte of a stored pointer (40_engine R106, R111). -/
@[simp] theorem storedPointer_low (v : BitVec 17) : (storedPointer v).extractLsb' 0 8 = BitVec.ofNat 8 v.toNat := by
  apply BitVec.eq_of_toNat_eq
  rw [BitVec.extractLsb'_toNat, storedPointer_toNat]; simp

/-- The high byte of a stored pointer. -/
@[simp] theorem storedPointer_high (v : BitVec 17) :
    (storedPointer v).extractLsb' 8 8 = BitVec.ofNat 8 (v.toNat / 256) := by
  apply BitVec.eq_of_toNat_eq
  rw [BitVec.extractLsb'_toNat, storedPointer_toNat, Nat.shiftRight_eq_div_pow]; simp; omega

/-- The leaf a WRITE takes is a function of the store. -/
theorem State.writeLeaf_congr {s t : State} (h : t.store = s.store) : t.writeLeaf = s.writeLeaf := by
  simp only [State.writeLeaf, State.head, State.tail, State.pageSize, State.flip, h]

/-- The leaf a READ takes is a function of the store. -/
theorem State.readLeaf_congr {s t : State} (h : t.store = s.store) : t.readLeaf = s.readLeaf := by
  simp only [State.readLeaf, State.head, State.tail, State.pageSize, State.flip, h]

theorem isFull_eq_writeLeaf (s : State) : isFull s.head s.tail s.pageSize s.flip = !s.writeLeaf.result := by
  unfold isFull
  rw [← State.writeLeaf]
  cases s.writeLeaf <;> rfl

theorem containsData_eq_readLeaf (s : State) :
    containsData s.head s.tail s.pageSize s.flip = s.readLeaf.result := by
  unfold containsData
  rw [← State.readLeaf]
  cases s.readLeaf <;> rfl

theorem execWrite_eq (len : Half) (s : State) :
    execWrite len s =
      match s.writeLeaf with
      | .linear => andThen ((s.fetched (.write len)).putPage s.head len) fun t =>
          .next ((t.commitHead (paeSum s.head s.pageSize)).respond .ok true)
      | .wrapRoom => andThen ((s.fetched (.write len)).wrapHead.putPage 0 len) fun t =>
          .next ((t.commitHead (paeSum 0 s.pageSize)).respond .ok true)
      | .wrapFull => .next ((s.fetched (.write len)).wrapHead.respond .ok false)
      | .lappedRoom => andThen ((s.fetched (.write len)).putPage s.head len) fun t =>
          .next ((t.commitHead (paeSum s.head s.pageSize)).respond .ok true)
      | .lappedFull => .next ((s.fetched (.write len)).respond .ok false) := by
  cases h : writeCase s.head s.tail s.pageSize s.flip <;>
    simp only [execWrite, State.writeLeaf, State.fetched, State.fetchMeta_H, State.fetchMeta_T, State.fetchMeta_P,
    State.fetchMeta_F, State.accept_head, State.accept_tail, State.accept_pageSize, State.accept_flip, h]

theorem execRead_eq (s : State) :
    execRead s =
      match s.readLeaf with
      | .linearData => andThen ((s.fetched .read).getPage s.tail) fun t =>
          .next ((t.commitTail (paeSum s.tail s.pageSize)).respond .ok true)
      | .linearEmpty => .next ((s.fetched .read).respond .ok false)
      | .wrapData => andThen ((s.fetched .read).wrapTail.getPage 0) fun t =>
          .next ((t.commitTail (paeSum 0 s.pageSize)).respond .ok true)
      | .wrapEmpty => .next ((s.fetched .read).wrapTail.respond .ok false)
      | .lappedData => andThen ((s.fetched .read).getPage s.tail) fun t =>
          .next ((t.commitTail (paeSum s.tail s.pageSize)).respond .ok true) := by
  cases h : readCase s.head s.tail s.pageSize s.flip <;>
    simp only [execRead, State.readLeaf, State.fetched, State.fetchMeta_H, State.fetchMeta_T, State.fetchMeta_P,
    State.fetchMeta_F, State.accept_head, State.accept_tail, State.accept_pageSize, State.accept_flip, h]

theorem execIsFull_eq (s : State) :
    execIsFull s = .next ((s.fetched .isFull).respond .ok (isFull s.head s.tail s.pageSize s.flip)) := by
  simp only [execIsFull, State.fetched, State.fetchMeta_H, State.fetchMeta_T, State.fetchMeta_P,
    State.fetchMeta_F, State.accept_head, State.accept_tail, State.accept_pageSize, State.accept_flip]

theorem execContainsData_eq (s : State) :
    execContainsData s
      = .next ((s.fetched .containsData).respond .ok (containsData s.head s.tail s.pageSize s.flip)) := by
  simp only [execContainsData, State.fetched, State.fetchMeta_H, State.fetchMeta_T, State.fetchMeta_P,
    State.fetchMeta_F, State.accept_head, State.accept_tail, State.accept_pageSize, State.accept_flip]

theorem execIsInitialized_eq (s : State) :
    execIsInitialized s
      = .next ((s.accept (encode .isInitialized)).fetchMagic.respond .ok (decide (s.magic = Config.magic))) := by
  simp only [execIsInitialized, State.fetchMagic_M, State.accept_magic]

end Sys2Proof.Machine
end

