-- ==== Sys2Proof/Laws/PerInstr.lean ====
section
/-! SUPPORT. Statements made per instruction: the fields of each command's word (30_encoding R81 to R84). -/

namespace Sys2Proof.Laws

/-- The word of a command satisfies R84's conditions: its OP is in 1..6, its RSV is 0, and its ARG is 0 unless OP is 1
or 2. -/
def LegalWord.Statement (i : Instr) : Prop :=
  1 ≤ (encode i).toNat % 16 ∧ (encode i).toNat % 16 ≤ 6 ∧ (encode i).toNat / 16 % 4096 = 0
    ∧ (3 ≤ (encode i).toNat % 16 → (encode i).toNat / 65536 = 0)

theorem LegalWord.of_fields {i : Instr} (ho : 1 ≤ i.opcode.toNat ∧ i.opcode.toNat ≤ 6)
    (ha : 3 ≤ i.opcode.toNat → i.arg = 0) : LegalWord.Statement i := by
  unfold LegalWord.Statement
  rw [← opField_toNat, ← rsvField_toNat, ← argField_toNat, opField_encode, rsvField_encode, argField_encode]
  exact ⟨ho.1, ho.2, rfl, fun h => by rw [ha h]; rfl⟩

theorem LegalWord.format (pageSize : Half) : LegalWord.Statement (.format pageSize) :=
  LegalWord.of_fields (by simp [Instr.opcode]) (by simp [Instr.opcode])

theorem LegalWord.write (len : Half) : LegalWord.Statement (.write len) :=
  LegalWord.of_fields (by simp [Instr.opcode]) (by simp [Instr.opcode])

theorem LegalWord.read : LegalWord.Statement .read :=
  LegalWord.of_fields (by simp [Instr.opcode]) (by simp [Instr.arg])

theorem LegalWord.isFull : LegalWord.Statement .isFull :=
  LegalWord.of_fields (by simp [Instr.opcode]) (by simp [Instr.arg])

theorem LegalWord.containsData : LegalWord.Statement .containsData :=
  LegalWord.of_fields (by simp [Instr.opcode]) (by simp [Instr.arg])

theorem LegalWord.isInitialized : LegalWord.Statement .isInitialized :=
  LegalWord.of_fields (by simp [Instr.opcode]) (by simp [Instr.arg])

end Sys2Proof.Laws
end

