-- ==== Sys2Proof/Laws/Sequencer.lean ====
section
/-! SUPPORT. Runs of events: a run is cut anywhere, and each stretch of a transaction (fetch, commit, page transfer)
leaves what its whole-transaction operation leaves. -/

namespace Sys2Proof.Machine

/-- A run of m + n events is a run of m, then a run of n. -/
theorem State.events_add (m n : Nat) (s : State) :
    State.events (m + n) s = andThen (State.events m s) (State.events n) := by
  induction m generalizing s with
  | zero => simp [State.events, andThen]
  | succ m ih =>
    rw [Nat.add_right_comm]
    simp only [State.events]
    cases s.event with
    | next t => exact ih t
    | fault e => rfl
    | refused e => rfl

@[simp] theorem State.setPoint_setPoint (s : State) (p q : Point) : (s.setPoint p).setPoint q = s.setPoint q := rfl

theorem State.afterFetch_setPoint (s : State) (p : Point) : (s.setPoint p).afterFetch = s.afterFetch := by
  cases s
  simp only [State.setPoint, State.afterFetch, State.chooseWrite, State.chooseRead, State.startPut, State.startGet,
    State.setI]
  rfl

/-- The metadata fetch, event by event (40_engine R104). -/
theorem State.events_fetch (s : State) : State.events 7 (s.setPoint (.fetch 0)) = .next s.fetchMeta.afterFetch := by
  have h : State.events 7 (s.setPoint (.fetch 0)) = .next (s.fetchMeta.setPoint (.fetch 6)).afterFetch := by
    cases s
    simp [State.events, State.event, State.request, State.advance, State.latch, andThen, State.setPoint,
      State.storeRead, State.issue, State.setH, State.setT, State.setP, State.setF, State.fetchMeta, State.fetchHead,
      State.fetchTail, State.fetchPageSize, State.fetchFlip, State.loadBytes, shiftIn16_two, Config.capacity,
      State.head, State.tail, State.pageSize, State.flip, field16, field8]
  rw [h, State.afterFetch_setPoint]

/-- The magic fetch, event by event (44_queries R196). -/
theorem State.events_magic (s : State) :
    State.events 4 (s.setPoint (.magic 0))
      = .next (s.fetchMagic.setPoint (.respond .ok (decide (s.magic = Config.magic)))) := by
  cases s
  simp [State.events, State.event, State.request, State.advance, andThen, State.setPoint, State.storeRead,
    State.issue, State.setM, State.fetchMagic, State.loadBytes, shiftIn32_four, Config.capacity, State.magic, field32]
  rfl

/-- FORMAT's 11 writes, event by event (41_format R141). -/
theorem State.events_format (s : State) :
    State.events 11 (s.setPoint (.format 0))
      = .next ((((((s.storeField16 offHead 0).storeField16 offTail 0).storeField8 offFlip flipClear).storeField16
          offPageSize s.P).storeField32 offMagic Config.magic).setPoint (.respond .ok true)) := by
  cases s
  simp [State.events, State.event, State.request, State.advance, andThen, State.setPoint, State.storeWrite,
    State.issue, nthWrite, formatWrites, fieldWrites, encodeU16, encodeU32, Config.capacity, State.storeField16,
    State.storeField8, State.storeField32, State.storeBytes]

/-- WrapHead, event by event (40_engine R106). -/
theorem State.events_wrapHead (s : State) (room : Bool) :
    State.events 3 (s.setPoint (.wrapHead 0 room))
      = .next (if room then s.wrapHead.startPut else s.wrapHead.setPoint (.respond .ok false)) := by
  cases s; cases room <;>
  simp [State.events, State.event, State.request, State.advance, andThen, State.setPoint, State.storeWrite,
    State.issue, nthWrite, wrapHeadWrites, fieldWrites, encodeU16, Config.capacity, State.storeField16,
    State.storeField8, State.storeBytes, State.wrapHead, State.startPut, State.setI, State.setH, State.setF]

/-- WrapTail, event by event (40_engine R106). -/
theorem State.events_wrapTail (s : State) (data : Bool) :
    State.events 3 (s.setPoint (.wrapTail 0 data))
      = .next (if data then s.wrapTail.startGet else s.wrapTail.setPoint (.respond .ok false)) := by
  cases s; cases data <;>
  simp [State.events, State.event, State.request, State.advance, andThen, State.setPoint, State.storeWrite,
    State.issue, nthWrite, wrapTailWrites, fieldWrites, encodeU16, Config.capacity, State.storeField16,
    State.storeField8, State.storeBytes, State.wrapTail, State.startGet, State.setI, State.setT, State.setF]

/-- CommitHead, event by event (40_engine R106). -/
theorem State.events_commitHead (s : State) :
    State.events 2 (s.setPoint (.commitHead 0))
      = .next ((s.commitHead (paeSum s.H s.P)).setPoint (.respond .ok true)) := by
  cases s
  simp [State.events, State.event, State.request, State.advance, andThen, State.setPoint, State.storeWrite,
    State.issue, nthWrite, commitHeadWrites, fieldWrites, encodeU16, Config.capacity, State.commitHead,
    State.storeField16, State.storeBytes]

/-- CommitTail, event by event (40_engine R106). -/
theorem State.events_commitTail (s : State) :
    State.events 2 (s.setPoint (.commitTail 0))
      = .next ((s.commitTail (paeSum s.T s.P)).setPoint (.respond .ok true)) := by
  cases s
  simp [State.events, State.event, State.request, State.advance, andThen, State.setPoint, State.storeWrite,
    State.issue, nthWrite, commitTailWrites, fieldWrites, encodeU16, Config.capacity, State.commitTail,
    State.storeField16, State.storeBytes]

/-- The response, as an event (40_engine R103). -/
theorem State.event_respond (s : State) (st : Status) (r : Bool) :
    (s.setPoint (.respond st r)).event = .next (s.respond st r) := rfl


theorem State.setPoint_self {s : State} {p : Point} (h : s.point = p) : s.setPoint p = s := by
  subst h; rfl

theorem State.setI_self {s : State} {i : Nat} (h : s.I.toNat = i) : s.setI (BitVec.ofNat 16 i) = s := by
  subst h; simp [State.setI]

theorem State.putBytes_setI (base len : Half) (n i : Nat) (s : State) (v : Half) :
    State.putBytes base len (n + 1) i (s.setI v) = State.putBytes base len (n + 1) i s := rfl

theorem State.getBytes_setI (base : Half) (n i : Nat) (s : State) (v : Half) :
    State.getBytes base (n + 1) i (s.setI v) = State.getBytes base (n + 1) i s := rfl

/-- PutPage's byte I, event by event. -/
theorem State.events_putByte (s : State) (hp : s.point = .put) :
    State.events (if s.I.toNat < s.ARG.toNat then 2 else 1) s
      = if pageAddr s.H s.I.toNat < Config.capacity then
          .next ((s.takeRecordByte s.ARG s.I.toNat).storeWrite (pageAddr s.H s.I.toNat)
            (recordByte s.hb s.ARG s.I.toNat)).nextPut
        else (s.takeRecordByte s.ARG s.I.toNat).raise (pageAddr s.H s.I.toNat) := by
  obtain ⟨store, hb, H, T, P, F, M, OP, RSV, ARG, I, RES, seq, point, rw', fr, cmd, rr, rst, be, log⟩ := s
  simp only at hp; subst hp
  by_cases h : I.toNat < ARG.toNat <;> by_cases hc : pageAddr H I.toNat < Config.capacity <;>
    simp [h, hc, State.events, State.event, State.request, andThen, State.advance, State.takeRecordByte, recordByte,
      State.hbRead, State.storeWrite, State.issue, State.setPoint, State.nextPut, State.raise, State.setI]

/-- PutPage from byte i on, event by event (20_memory R61): the same bytes, or the same fault. -/
theorem State.events_put (n i : Nat) (s : State) (hp : s.point = .put) (hi : s.I.toNat = i)
    (hP : s.P.toNat = i + (n + 1)) :
    ∃ k, k ≤ 2 * (n + 1) ∧ State.events k s
      = andThen (State.putBytes s.H s.ARG (n + 1) i s) fun t => .next (t.setPoint (.commitHead 0)) := by
  induction n generalizing i s with
  | zero =>
    refine ⟨(if s.I.toNat < s.ARG.toNat then 2 else 1), by split <;> omega, ?_⟩
    rw [State.putBytes, State.events_putByte s hp]
    simp only [State.setI_self hi, hi]
    by_cases hc : pageAddr s.H i < Config.capacity
    · simp only [if_pos hc, andThen, State.putBytes]
      simp [State.nextPut, hi, hP]
    · simp only [if_neg hc]; rfl
  | succ n ih =>
    rw [State.putBytes]
    simp only [State.setI_self hi]
    by_cases hc : pageAddr s.H i < Config.capacity
    · obtain ⟨k, hk, he⟩ := ih (i + 1)
        ((((s.takeRecordByte s.ARG i).storeWrite (pageAddr s.H i) (recordByte s.hb s.ARG i)).setI (s.I + 1)).setPoint .put)
        rfl (by simp; have := s.P.isLt; omega) (by simp; omega)
      refine ⟨(if s.I.toNat < s.ARG.toNat then 2 else 1) + k, ?_, ?_⟩
      · split <;> omega
      · rw [State.events_add, State.events_putByte s hp, hi]
        simp only [if_pos hc, andThen]
        rw [State.nextPut, if_pos (by simp; omega)]
        simp only [State.storeWrite_I, State.takeRecordByte_I]
        rw [he]
        simp only [State.setPoint_H, State.setI_H, State.storeWrite_H, State.takeRecordByte_H, State.setPoint_ARG,
          State.setI_ARG, State.storeWrite_ARG, State.takeRecordByte_ARG]
        rw [State.setPoint_self (by simp [hp])]
        rw [State.putBytes_setI]
        rfl
    · refine ⟨(if s.I.toNat < s.ARG.toNat then 2 else 1), by split <;> omega, ?_⟩
      · rw [State.events_putByte s hp]; simp only [hi, if_neg hc]; rfl

/-- GetPage's byte I, event by event. -/
theorem State.events_getByte (s : State) (hp : s.point = .get) :
    State.events 2 s
      = if pageAddr s.T s.I.toNat < Config.capacity then
          .next ((s.storeRead (pageAddr s.T s.I.toNat)).hbWrite s.I.toNat (s.store.read (pageAddr s.T s.I.toNat))).nextGet
        else s.raise (pageAddr s.T s.I.toNat) := by
  obtain ⟨store, hb, H, T, P, F, M, OP, RSV, ARG, I, RES, seq, point, rw', fr, cmd, rr, rst, be, log⟩ := s
  simp only at hp; subst hp
  by_cases hc : pageAddr T I.toNat < Config.capacity <;>
    simp [hc, State.events, State.event, State.request, andThen, State.advance, State.storeRead, State.hbWrite,
      State.issue, State.setPoint, State.nextGet, State.raise, State.setI]

/-- GetPage from byte i on, event by event (20_memory R61): the same bytes, or the same fault. -/
theorem State.events_get (n i : Nat) (s : State) (hp : s.point = .get) (hi : s.I.toNat = i)
    (hP : s.P.toNat = i + (n + 1)) :
    ∃ k, k ≤ 2 * (n + 1) ∧ State.events k s
      = andThen (State.getBytes s.T (n + 1) i s) fun t => .next (t.setPoint (.commitTail 0)) := by
  induction n generalizing i s with
  | zero =>
    refine ⟨2, by omega, ?_⟩
    rw [State.getBytes, State.events_getByte s hp]
    simp only [State.setI_self hi, hi]
    by_cases hc : pageAddr s.T i < Config.capacity
    · simp only [if_pos hc, andThen, State.getBytes]
      simp [State.nextGet, hi, hP]
    · simp only [if_neg hc]; rfl
  | succ n ih =>
    rw [State.getBytes]
    simp only [State.setI_self hi]
    by_cases hc : pageAddr s.T i < Config.capacity
    · obtain ⟨k, hk, he⟩ := ih (i + 1)
        ((((s.storeRead (pageAddr s.T i)).hbWrite i (s.store.read (pageAddr s.T i))).setI (s.I + 1)).setPoint .get)
        rfl (by simp; have := s.P.isLt; omega) (by simp; omega)
      refine ⟨2 + k, by omega, ?_⟩
      rw [State.events_add, State.events_getByte s hp, hi]
      simp only [if_pos hc, andThen]
      rw [State.nextGet, if_pos (by simp; omega)]
      simp only [State.hbWrite_I, State.storeRead_I]
      rw [he]
      simp only [State.setPoint_T, State.setI_T, State.hbWrite_T, State.storeRead_T]
      rw [State.setPoint_self (by simp [hp]), State.getBytes_setI]
      rfl
    · refine ⟨2, by omega, ?_⟩
      rw [State.events_getByte s hp]
      simp only [hi, if_neg hc]; rfl

theorem putBytes_setPoint (base len : Half) (n i : Nat) (s : State) (p q : Point) :
    (andThen (State.putBytes base len n i (s.setPoint p)) fun t => .next (t.setPoint q))
      = andThen (State.putBytes base len n i s) fun t => .next (t.setPoint q) := by
  induction n generalizing i s with
  | zero => rfl
  | succ n ih =>
    simp only [State.putBytes]
    have hs : ((s.setPoint p).setI (BitVec.ofNat 16 i)).takeRecordByte len i
        = ((s.setI (BitVec.ofNat 16 i)).takeRecordByte len i).setPoint p := by
      unfold State.takeRecordByte; split <;> rfl
    rw [hs]
    split
    · exact ih (i + 1) (((s.setI (BitVec.ofNat 16 i)).takeRecordByte len i).storeWrite _ _)
    · rfl

theorem getBytes_setPoint (base : Half) (n i : Nat) (s : State) (p q : Point) :
    (andThen (State.getBytes base n i (s.setPoint p)) fun t => .next (t.setPoint q))
      = andThen (State.getBytes base n i s) fun t => .next (t.setPoint q) := by
  induction n generalizing i s with
  | zero => rfl
  | succ n ih =>
    simp only [State.getBytes]
    split
    · exact ih (i + 1) (((s.setI (BitVec.ofNat 16 i)).storeRead _).hbWrite _ _)
    · rfl

/-- PutPage as a whole, event by event (20_memory R61). -/
theorem State.events_putPage (s : State) :
    ∃ k, k ≤ 2 * s.P.toNat ∧ State.events k s.startPut
      = andThen (s.putPage s.H s.ARG) fun t => .next (t.setPoint (.commitHead 0)) := by
  by_cases h : s.P = 0
  · exact ⟨0, by omega, by simp [State.startPut, State.putPage, h, State.events, State.putBytes, andThen]⟩
  · have hP : s.P.toNat = 0 + (s.P.toNat - 1 + 1) := by
      have := mt (BitVec.eq_of_toNat_eq (x := s.P) (y := 0)) h
      simp at this; omega
    obtain ⟨k, hk, he⟩ := State.events_put (s.P.toNat - 1) 0 ((s.setI 0).setPoint .put) rfl rfl hP
    refine ⟨k, by omega, ?_⟩
    rw [State.startPut, if_neg h, he, putBytes_setPoint, State.putPage]
    simp only [State.setPoint_H, State.setI_H, State.setPoint_ARG, State.setI_ARG]
    rw [show s.P.toNat - 1 + 1 = s.P.toNat by omega]

/-- GetPage as a whole, event by event (20_memory R61). -/
theorem State.events_getPage (s : State) :
    ∃ k, k ≤ 2 * s.P.toNat ∧ State.events k s.startGet
      = andThen (s.getPage s.T) fun t => .next (t.setPoint (.commitTail 0)) := by
  by_cases h : s.P = 0
  · exact ⟨0, by omega, by simp [State.startGet, State.getPage, h, State.events, State.getBytes, andThen]⟩
  · have hP : s.P.toNat = 0 + (s.P.toNat - 1 + 1) := by
      have := mt (BitVec.eq_of_toNat_eq (x := s.P) (y := 0)) h
      simp at this; omega
    obtain ⟨k, hk, he⟩ := State.events_get (s.P.toNat - 1) 0 ((s.setI 0).setPoint .get) rfl rfl hP
    refine ⟨k, by omega, ?_⟩
    rw [State.startGet, if_neg h, he, getBytes_setPoint, State.getPage]
    simp only [State.setPoint_T, State.setI_T]
    rw [show s.P.toNat - 1 + 1 = s.P.toNat by omega]

/-! ### What the sequencer's moves change -/

/-- `t` differs from `s` in the working registers and the sequencer's step only, and its step is a legal due one. -/
structure Moved (s t : State) : Prop where
  frame : t = { s with H := t.H, T := t.T, P := t.P, F := t.F, M := t.M, I := t.I, point := t.point }
  due : t.point ≠ .rest ∧ t.point.wf = true

theorem Moved.setPoint (s : State) {p : Point} (h : p ≠ .rest ∧ p.wf = true) : Moved s (s.setPoint p) := ⟨rfl, h⟩

theorem Moved.startPut (s : State) : Moved s s.startPut :=
  ⟨rfl, by simp only [State.startPut, State.setPoint_point]; split <;> simp [Point.wf]⟩

theorem Moved.startGet (s : State) : Moved s s.startGet :=
  ⟨rfl, by simp only [State.startGet, State.setPoint_point]; split <;> simp [Point.wf]⟩

theorem Moved.nextPut (s : State) : Moved s s.nextPut := by
  unfold State.nextPut; split <;> exact ⟨rfl, by simp [Point.wf]⟩

theorem Moved.nextGet (s : State) : Moved s s.nextGet := by
  unfold State.nextGet; split <;> exact ⟨rfl, by simp [Point.wf]⟩

theorem Moved.afterFetch (s : State) : Moved s s.afterFetch := by
  unfold State.afterFetch State.chooseWrite State.chooseRead
  (repeat' split) <;> first
    | exact Moved.startPut s
    | exact Moved.startGet s
    | exact Moved.setPoint s (by simp [Point.wf])

theorem Moved.trans {s t u : State}
    (h : t = { s with H := t.H, T := t.T, P := t.P, F := t.F, M := t.M, I := t.I, point := t.point }) (h' : Moved t u) : Moved s u := by
  exact ⟨h'.frame.trans (congrArg (fun x : State => { x with H := u.H, T := u.T, P := u.P, F := u.F, M := u.M,
                                                             I := u.I, point := u.point }) h), h'.due⟩

/-- Moving on after an access changes the working registers and the step only, and leaves an event due. -/
theorem Moved.advance (s : State) (b : Byte) (h : s.point ≠ .rest) (hr : ∀ st r, s.point ≠ .respond st r) :
    Moved s (s.advance b) := by
  unfold State.advance
  cases hp : s.point with
  | rest => exact absurd hp h
  | respond st r => exact absurd hp (hr st r)
  | format n => simp only; split <;> exact Moved.setPoint s (by simp [Point.wf])
  | fetch n =>
    have hl : s.latch n b =
        { s with H := (s.latch n b).H, T := (s.latch n b).T, P := (s.latch n b).P, F := (s.latch n b).F,
                 M := (s.latch n b).M, I := (s.latch n b).I, point := (s.latch n b).point } := by
      unfold State.latch; (repeat' split) <;> rfl
    simp only
    split
    · exact Moved.trans hl (Moved.setPoint _ (by simp [Point.wf]))
    · exact Moved.trans hl (Moved.afterFetch _)
  | magic n =>
    simp only; split <;> exact Moved.trans (t := s.setM (shiftIn32 s.M b)) rfl (Moved.setPoint _ (by simp [Point.wf]))
  | wrapHead n room =>
    simp only; split
    · exact Moved.setPoint s (by simp [Point.wf])
    · split
      · exact Moved.trans (t := (s.setH 0).setF flipSet) rfl (Moved.startPut _)
      · exact Moved.trans (t := (s.setH 0).setF flipSet) rfl (Moved.setPoint _ (by simp [Point.wf]))
  | wrapTail n data =>
    simp only; split
    · exact Moved.setPoint s (by simp [Point.wf])
    · split
      · exact Moved.trans (t := (s.setT 0).setF flipClear) rfl (Moved.startGet _)
      · exact Moved.trans (t := (s.setT 0).setF flipClear) rfl (Moved.setPoint _ (by simp [Point.wf]))
  | put =>
    simp only; split
    · exact Moved.setPoint s (by simp [Point.wf])
    · exact Moved.nextPut s
  | putStore v => exact Moved.nextPut s
  | get => exact Moved.setPoint s (by simp [Point.wf])
  | getHb v => exact Moved.nextGet s
  | commitHead n => simp only; split <;> exact Moved.setPoint s (by simp [Point.wf])
  | commitTail n => simp only; split <;> exact Moved.setPoint s (by simp [Point.wf])

/-! ### Whole transactions as runs of events -/

theorem decode_format (p : Half) : decode (encode (.format p)) = .ok (.format p) := by
  simp [decode, Instr.opcode, Instr.arg]

theorem decode_write (len : Half) : decode (encode (.write len)) = .ok (.write len) := by
  simp [decode, Instr.opcode, Instr.arg]

theorem State.begin_write (s : State) (len : Half) :
    s.begin (encode (.write len)) = (s.accept (encode (.write len))).setPoint (.fetch 0) := by
  rw [State.begin, decode_write]

theorem State.begin_format (s : State) {p : Half} (h : p ≠ 0) :
    s.begin (encode (.format p)) = ((s.accept (encode (.format p))).setP p).setPoint (.format 0) := by
  rw [State.begin, decode_format]
  simp only [if_neg h]

theorem andThen_assoc (r : Result) (f g : State → Result) :
    andThen (andThen r f) g = andThen r fun t => andThen (f t) g := by
  cases r <;> rfl

theorem State.events_one (s : State) : State.events 1 s = s.event := by
  simp only [State.events]
  cases s.event <;> rfl

/-- The rest of a WRITE that stores a page, from the transfer on (42_write R151). -/
theorem State.events_storePage (s : State) :
    ∃ k, k ≤ 2 * s.P.toNat + 3 ∧ State.events k s.startPut
      = andThen (s.putPage s.H s.ARG) fun t => .next ((t.commitHead (paeSum s.H s.P)).respond .ok true) := by
  obtain ⟨k, hk, he⟩ := State.events_putPage s
  refine ⟨k + (2 + 1), by omega, ?_⟩
  rw [State.events_add, he, andThen_assoc]
  by_cases hf : fits s.H s.P
  · obtain ⟨t, ht, hall, -⟩ := putPage_next s s.H s.ARG hf
    have h1 : t.H = s.H := by rw [hall]
    have h2 : t.P = s.P := by rw [hall]
    rw [ht, andThen_next, andThen_next, andThen_next, State.events_add, State.events_commitHead, andThen_next,
      State.events_one, State.event_respond, h1, h2]
  · obtain ⟨l, hl, -⟩ := putPage_fault s s.H s.ARG hf
    rw [hl]; rfl

/-- The rest of a READ that returns a page, from the transfer on (43_read R171). -/
theorem State.events_loadPage (s : State) :
    ∃ k, k ≤ 2 * s.P.toNat + 3 ∧ State.events k s.startGet
      = andThen (s.getPage s.T) fun t => .next ((t.commitTail (paeSum s.T s.P)).respond .ok true) := by
  obtain ⟨k, hk, he⟩ := State.events_getPage s
  refine ⟨k + (2 + 1), by omega, ?_⟩
  rw [State.events_add, he, andThen_assoc]
  by_cases hf : fits s.T s.P
  · obtain ⟨t, ht, hall, -⟩ := getPage_next s s.T hf
    have h1 : t.T = s.T := by rw [hall]
    have h2 : t.P = s.P := by rw [hall]
    rw [ht, andThen_next, andThen_next, andThen_next, State.events_add, State.events_commitTail, andThen_next,
      State.events_one, State.event_respond, h1, h2]
  · obtain ⟨l, hl, -⟩ := getPage_fault s s.T hf
    rw [hl]; rfl

/-! ### What one event can do -/

/-- What no event changes: the latched word, the inputs, the fault record and the model's own fields. -/
structure Keeps (s t : State) : Prop where
  OP : t.OP = s.OP
  RSV : t.RSV = s.RSV
  ARG : t.ARG = s.ARG
  faultRec : t.faultRec = s.faultRec
  cmd : t.cmd = s.cmd
  rspReady : t.rspReady = s.rspReady
  rst : t.rst = s.rst
  byEvent : t.byEvent = s.byEvent
  answered : t.answered = s.answered

theorem Keeps.refl (s : State) : Keeps s s := ⟨rfl, rfl, rfl, rfl, rfl, rfl, rfl, rfl, rfl⟩

theorem Keeps.trans {s t u : State} (h : Keeps s t) (h' : Keeps t u) : Keeps s u :=
  ⟨h'.1.trans h.1, h'.2.trans h.2, h'.3.trans h.3, h'.4.trans h.4, h'.5.trans h.5, h'.6.trans h.6, h'.7.trans h.7,
    h'.8.trans h.8, h'.9.trans h.9⟩

/-- HB after an event. -/
def hbAfter (hb : Memory) : Event → Memory
  | .hbWrite i v => hb.write i v
  | .storeRead _ _ => hb
  | .storeWrite _ _ => hb
  | .hbRead _ _ => hb
  | .respond _ => hb

/-- What an event does, beside what its access does to the store and HB: it is recorded; SEQ counts it, with another one
due, or is RESP with its word on the port. -/
structure EventStep (s t : State) (e : Event) : Prop where
  log : t.log = e :: s.log
  store : t.store = replay s.store [e]
  hb : t.hb = hbAfter s.hb e
  seen : ∀ a v, e = .storeRead a v → v = s.store.read a
  keeps : Keeps s t
  moves : (e.kind ≠ .respond ∧ t.point ≠ .rest ∧ t.seq = s.seq.bump)
    ∨ (t.point = .rest ∧ ∃ st r, e = .respond (responseWord st r) ∧ t.seq = .resp ∧ t.rspWord = responseWord st r
        ∧ t.RES = r ∧ s.request = some (.respond st r))

/-- An access that is no response, followed by the sequencer's move, is an event step. -/
theorem EventStep.advance {s u : State} {e : Event} (b : Byte) (hp : u.point = s.point) (h0 : s.point ≠ .rest)
    (hr : ∀ st r, s.point ≠ .respond st r) (hl : u.log = e :: s.log) (hs : u.store = replay s.store [e])
    (hh : u.hb = hbAfter s.hb e)
    (hv : ∀ a v, e = .storeRead a v → v = s.store.read a) (hk : Keeps s u) (he : e.kind ≠ .respond)
    (hq : u.seq = s.seq.bump) : EventStep s (u.advance b) e := by
  obtain ⟨kf, hd⟩ := Moved.advance u b (hp ▸ h0) (fun st r => hp ▸ hr st r)
  exact ⟨by rw [kf]; exact hl, by rw [kf]; exact hs, by rw [kf]; exact hh, hv,
    hk.trans (by rw [kf]; exact ⟨rfl, rfl, rfl, rfl, rfl, rfl, rfl, rfl, rfl⟩),
    Or.inl ⟨he, hd.1, by rw [kf]; exact hq⟩⟩

/-- An event that answers a next state: nothing was due, or one event happened. -/
theorem State.event_next {s t : State} (he : s.event = .next t) :
    (s.request = none ∧ t = s) ∨ ∃ e, EventStep s t e := by
  unfold State.event at he
  cases hreq : s.request with
  | none => rw [hreq] at he; injection he with he; exact Or.inl ⟨rfl, he.symm⟩
  | some q =>
    right
    rw [hreq] at he
    have h0 : s.point ≠ .rest := by intro hp; simp [State.request, hp] at hreq
    have hr : (∀ st r, q ≠ .respond st r) → ∀ st r, s.point ≠ .respond st r := by
      intro hh st r hp; simp [State.request, hp] at hreq; exact hh st r hreq.symm
    cases q with
    | respond st r =>
      injection he with he; subst he
      exact ⟨.respond (responseWord st r), by simp, by simp [replay], by simp [hbAfter], by simp,
        ⟨rfl, rfl, rfl, rfl, rfl, rfl, rfl, rfl, rfl⟩, Or.inr ⟨by simp, st, r, rfl, by simp, by simp, by simp, hreq⟩⟩
    | storeRead a =>
      simp only at he
      split at he <;> simp [State.raise] at he
      subst he
      exact ⟨_, EventStep.advance _ rfl h0 (hr (by simp)) rfl (by simp [replay]) (by simp [hbAfter]) (by simp)
        ⟨rfl, rfl, rfl, rfl, rfl, rfl, rfl, rfl, rfl⟩ (by simp [Event.kind]) rfl⟩
    | storeWrite a v =>
      simp only at he
      split at he <;> simp [State.raise] at he
      subst he
      exact ⟨_, EventStep.advance _ rfl h0 (hr (by simp)) rfl (by simp [replay]) (by simp [hbAfter]) (by simp)
        ⟨rfl, rfl, rfl, rfl, rfl, rfl, rfl, rfl, rfl⟩ (by simp [Event.kind]) rfl⟩
    | hbRead i =>
      injection he with he; subst he
      exact ⟨_, EventStep.advance _ rfl h0 (hr (by simp)) rfl (by simp [replay]) (by simp [hbAfter]) (by simp)
        ⟨rfl, rfl, rfl, rfl, rfl, rfl, rfl, rfl, rfl⟩ (by simp [Event.kind]) rfl⟩
    | hbWrite i v =>
      injection he with he; subst he
      exact ⟨_, EventStep.advance _ rfl h0 (hr (by simp)) rfl (by simp [replay]) (by simp [hbAfter]) (by simp)
        ⟨rfl, rfl, rfl, rfl, rfl, rfl, rfl, rfl, rfl⟩ (by simp [Event.kind]) rfl⟩

/-- Events keep what one event keeps. -/
theorem State.events_keeps {n : Nat} {s t : State} (he : State.events n s = .next t) : Keeps s t := by
  induction n generalizing s with
  | zero => injection he with he; exact he ▸ Keeps.refl s
  | succ n ih =>
    simp only [State.events] at he
    cases hev : s.event with
    | next u =>
      rw [hev] at he
      rcases State.event_next hev with ⟨-, rfl⟩ | ⟨e, h⟩
      · exact ih he
      · exact h.keeps.trans (ih he)
    | fault e => rw [hev] at he; cases he
    | refused e => rw [hev] at he; cases he

/-- What accepting a word and decoding it leaves. -/
theorem State.begin_fields (s : State) (w : Word) :
    (s.begin w).seq = .busy 0 ∧ (s.begin w).log = [] ∧ (s.begin w).store = s.store ∧ (s.begin w).hb = s.hb
      ∧ (s.begin w).cmd = none ∧ (s.begin w).OP = opField w ∧ (s.begin w).RSV = rsvField w ∧ (s.begin w).ARG = argField w
      ∧ (s.begin w).rspReady = s.rspReady ∧ (s.begin w).rst = s.rst ∧ (s.begin w).byEvent = s.byEvent
      ∧ (s.begin w).faultRec = s.faultRec ∧ (s.begin w).answered = s.answered := by
  unfold State.begin
  (repeat' split) <;> simp

/-- An illegal word's transaction is one event (30_encoding R84). -/
theorem State.events_illegal (s : State) {w : Word} {r : Reject} (h : decode w = .error r) :
    State.events 1 (s.begin w) = .next (s.refuseWord w) := by
  rw [State.begin, h]; rfl

/-- Once nothing is due, no further event happens. -/
theorem State.events_rest {s : State} (h : s.point = .rest) (n : Nat) : State.events n s = .next s := by
  induction n with
  | zero => rfl
  | succ n ih => simp [State.events, State.event, State.request, h, ih]

/-! ### Part of a page transfer -/

/-- What part of a page transfer leaves of the registers it does not move. -/
structure Unmoved (s t : State) : Prop where
  H : t.H = s.H
  T : t.T = s.T
  P : t.P = s.P
  F : t.F = s.F
  ARG : t.ARG = s.ARG

/-- PutPage's first c bytes, event by event (20_memory R61). -/
theorem State.events_putSome (s : State) (c : Nat) (hc : c ≤ s.P.toNat) (hfit : s.H.toNat + s.P.toNat ≤ Config.capacity) :
    ∃ t, State.events (c + min s.ARG.toNat c) s.startPut = .next t ∧ Unmoved s t ∧ t.hb = s.hb
      ∧ (t.point = if c < s.P.toNat then .put else .commitHead 0) ∧ (c < s.P.toNat → t.I.toNat = c)
      ∧ ∀ a, t.store.read a =
          if s.H.toNat ≤ a ∧ a < s.H.toNat + c then recordByte s.hb s.ARG (a - s.H.toNat) else s.store.read a := by
  induction c with
  | zero =>
    have h0 : s.P.toNat = 0 ↔ s.P = 0 := by rw [← BitVec.toNat_inj]; rfl
    refine ⟨s.startPut, by simp [State.events], ⟨rfl, rfl, rfl, rfl, rfl⟩, rfl, ?_, fun _ => rfl, fun a => by rw [if_neg (by omega)]; rfl⟩
    simp only [State.startPut, State.setPoint_point]
    by_cases hP : s.P = 0
    · rw [if_pos hP, if_neg (by rw [← h0] at hP; omega)]
    · rw [if_neg hP, if_pos (by rw [← h0] at hP; omega)]
  | succ c ih =>
    obtain ⟨t, h1, hu, hhb, hp, hI, hst⟩ := ih (by omega)
    rw [if_pos (by omega)] at hp
    have hI := hI (by omega)
    have hev := State.events_putByte t hp
    rw [if_pos (c := pageAddr t.H t.I.toNat < Config.capacity) (by rw [hu.H, hI]; unfold pageAddr; omega)] at hev
    refine ⟨_, by
      rw [show c + 1 + min s.ARG.toNat (c + 1) = (c + min s.ARG.toNat c) + (if t.I.toNat < t.ARG.toNat then 2 else 1) by
        rw [hu.ARG, hI]; split <;> omega, State.events_add, h1, andThen_next]
      exact hev, ?_⟩
    · unfold State.nextPut
      have hb : recordByte t.hb t.ARG c = recordByte s.hb s.ARG c := by rw [hhb, hu.ARG]
      have ha : pageAddr t.H c = s.H.toNat + c := by rw [hu.H]; rfl
      simp only [State.storeWrite_I, State.takeRecordByte_I, State.storeWrite_P, State.takeRecordByte_P, hu.P, hI, hb, ha]
      have hw : ∀ a, (t.store.write (s.H.toNat + c) (recordByte s.hb s.ARG c)).read a
          = if s.H.toNat ≤ a ∧ a < s.H.toNat + (c + 1) then recordByte s.hb s.ARG (a - s.H.toNat) else s.store.read a := by
        intro a
        rw [Memory.read_write, hst a]
        by_cases h : a = s.H.toNat + c
        · rw [if_pos h, if_pos (by omega)]; congr 1; omega
        · rw [if_neg h]
          by_cases h' : s.H.toNat ≤ a ∧ a < s.H.toNat + c
          · rw [if_pos h', if_pos (by omega)]
          · rw [if_neg h', if_neg (by omega)]
      by_cases hl : c + 1 < s.P.toNat
      · simp only [if_pos hl]
        refine ⟨⟨by simpa using hu.H, by simpa using hu.T, by simpa using hu.P, by simpa using hu.F,
          by simpa using hu.ARG⟩,
          by simpa using hhb, rfl, fun _ => ?_, fun a => by simpa using hw a⟩
        simp [hI]; have := s.P.isLt; omega
      · simp only [if_neg hl]
        exact ⟨⟨by simpa using hu.H, by simpa using hu.T, by simpa using hu.P, by simpa using hu.F,
          by simpa using hu.ARG⟩,
          by simpa using hhb, rfl, fun h => absurd h hl, fun a => by simpa using hw a⟩

/-- PutPage's first m events: what a cut inside the transfer of a WRITE leaves (70_reset R244). -/
theorem State.events_putPart (s : State) (m : Nat) (hm : m ≤ min s.ARG.toNat s.P.toNat + s.P.toNat)
    (hfit : s.H.toNat + s.P.toNat ≤ Config.capacity) :
    ∃ t, State.events m s.startPut = .next t ∧ Unmoved s t ∧ t.hb = s.hb
      ∧ (m = min s.ARG.toNat s.P.toNat + s.P.toNat → t.point = .commitHead 0)
      ∧ ∀ a, t.store.read a =
          if s.H.toNat ≤ a ∧ a < s.H.toNat + putDone (min s.ARG.toNat s.P.toNat) m
            then recordByte s.hb s.ARG (a - s.H.toNat) else s.store.read a := by
  generalize hc : putDone (min s.ARG.toNat s.P.toNat) m = c
  have hcl : c ≤ s.P.toNat ∧ (m = c + min s.ARG.toNat c
      ∨ (m = c + min s.ARG.toNat c + 1 ∧ c < s.ARG.toNat ∧ c < s.P.toNat)) := by
    unfold putDone at hc; split at hc <;> omega
  obtain ⟨hcl, hm'⟩ := hcl
  obtain ⟨t, h1, hu, hhb, hp, hI, hst⟩ := State.events_putSome s c hcl hfit
  rcases hm' with rfl | ⟨rfl, h2, h3⟩
  · exact ⟨t, h1, hu, hhb, fun h => by rw [hp, if_neg (by omega)], hst⟩
  · rw [if_pos h3] at hp; have hI := hI h3
    have he : t.event = .next ((t.hbRead t.I.toNat).advance (t.hb.read t.I.toNat)) := by
      unfold State.event State.request
      rw [hp]; simp only
      rw [if_pos (by rw [hI, hu.ARG]; omega)]
    have hadv : (t.hbRead t.I.toNat).advance (t.hb.read t.I.toNat)
        = (t.hbRead t.I.toNat).setPoint (.putStore (t.hb.read t.I.toNat)) := by
      unfold State.advance; rw [State.hbRead_point, hp]; simp only
      rw [if_pos (by rw [State.hbRead_I, State.hbRead_ARG, hI, hu.ARG]; omega)]
    refine ⟨_, by rw [State.events_add, h1, andThen_next, State.events_one, he, hadv], ?_,
      by simpa using hhb, fun h => by omega, fun a => by simpa using hst a⟩
    exact ⟨by simpa using hu.H, by simpa using hu.T, by simpa using hu.P, by simpa using hu.F,
          by simpa using hu.ARG⟩

/-- GetPage's first c bytes, event by event (20_memory R61). -/
theorem State.events_getSome (s : State) (c : Nat) (hc : c ≤ s.P.toNat) (hfit : s.T.toNat + s.P.toNat ≤ Config.capacity) :
    ∃ t, State.events (2 * c) s.startGet = .next t ∧ Unmoved s t ∧ t.store = s.store
      ∧ (t.point = if c < s.P.toNat then .get else .commitTail 0) ∧ (c < s.P.toNat → t.I.toNat = c)
      ∧ ∀ j, t.hb.read j = if j < c then s.store.read (s.T.toNat + j) else s.hb.read j := by
  induction c with
  | zero =>
    have h0 : s.P.toNat = 0 ↔ s.P = 0 := by rw [← BitVec.toNat_inj]; rfl
    refine ⟨s.startGet, rfl, ⟨rfl, rfl, rfl, rfl, rfl⟩, rfl, ?_, fun _ => rfl, fun a => by rw [if_neg (by omega)]; rfl⟩
    simp only [State.startGet, State.setPoint_point]
    by_cases hP : s.P = 0
    · rw [if_pos hP, if_neg (by rw [← h0] at hP; omega)]
    · rw [if_neg hP, if_pos (by rw [← h0] at hP; omega)]
  | succ c ih =>
    obtain ⟨t, h1, hu, hhb, hp, hI, hst⟩ := ih (by omega)
    rw [if_pos (by omega)] at hp
    have hI := hI (by omega)
    have hev := State.events_getByte t hp
    rw [if_pos (by rw [hu.T, hI]; unfold pageAddr; omega)] at hev
    refine ⟨_, by
      rw [show 2 * (c + 1) = 2 * c + 2 by omega, State.events_add, h1, andThen_next]
      exact hev, ?_⟩
    · unfold State.nextGet
      have ha : pageAddr t.T c = s.T.toNat + c := by rw [hu.T]; rfl
      simp only [State.hbWrite_I, State.storeRead_I, State.hbWrite_P, State.storeRead_P, hu.P, hI, ha]
      have hw : ∀ j, (t.hb.write c (t.store.read (s.T.toNat + c))).read j
          = if j < c + 1 then s.store.read (s.T.toNat + j) else s.hb.read j := by
        intro a
        rw [Memory.read_write, hst a, hhb]
        by_cases h : a = c
        · subst h; rw [if_pos rfl, if_pos (by omega)]
        · rw [if_neg h]
          by_cases h' : a < c
          · rw [if_pos h', if_pos (by omega)]
          · rw [if_neg h', if_neg (by omega)]
      by_cases hl : c + 1 < s.P.toNat
      · simp only [if_pos hl]
        refine ⟨⟨by simpa using hu.H, by simpa using hu.T, by simpa using hu.P, by simpa using hu.F,
          by simpa using hu.ARG⟩,
          by simpa using hhb, rfl, fun _ => ?_, fun a => by simpa using hw a⟩
        simp [hI]; have := s.P.isLt; omega
      · simp only [if_neg hl]
        exact ⟨⟨by simpa using hu.H, by simpa using hu.T, by simpa using hu.P, by simpa using hu.F,
          by simpa using hu.ARG⟩,
          by simpa using hhb, rfl, fun h => absurd h hl, fun a => by simpa using hw a⟩

/-- GetPage's first m events: what a cut inside the transfer of a READ leaves (70_reset R244). -/
theorem State.events_getPart (s : State) (m : Nat) (hm : m ≤ 2 * s.P.toNat)
    (hfit : s.T.toNat + s.P.toNat ≤ Config.capacity) :
    ∃ t, State.events m s.startGet = .next t ∧ Unmoved s t ∧ t.store = s.store
      ∧ (m = 2 * s.P.toNat → t.point = .commitTail 0)
      ∧ ∀ j, t.hb.read j = if j < m / 2 then s.store.read (s.T.toNat + j) else s.hb.read j := by
  obtain ⟨t, h1, hu, hhb, hp, hI, hst⟩ := State.events_getSome s (m / 2) (by omega) hfit
  rcases Nat.even_or_odd' m with ⟨c, rfl | rfl⟩
  · rw [show 2 * c / 2 = c by omega] at *
    exact ⟨t, h1, hu, hhb, fun h => by rw [hp, if_neg (by omega)], hst⟩
  · rw [show (2 * c + 1) / 2 = c by omega] at *
    rw [if_pos (by omega)] at hp
    have hI := hI (by omega)
    have he : t.event
        = .next ((t.storeRead (pageAddr t.T t.I.toNat)).advance (t.store.read (pageAddr t.T t.I.toNat))) := by
      unfold State.event State.request
      rw [hp]; simp only
      rw [if_pos (by rw [hI, hu.T]; unfold pageAddr; omega)]
    have hadv : (t.storeRead (pageAddr t.T t.I.toNat)).advance (t.store.read (pageAddr t.T t.I.toNat))
        = (t.storeRead (pageAddr t.T t.I.toNat)).setPoint (.getHb (t.store.read (pageAddr t.T t.I.toNat))) := by
      unfold State.advance; rw [State.storeRead_point, hp]
    refine ⟨_, by rw [State.events_add, h1, andThen_next, State.events_one, he, hadv], ?_,
      by simpa using hhb, fun h => by omega, fun a => by simpa using hst a⟩
    exact ⟨by simpa using hu.H, by simpa using hu.T, by simpa using hu.P, by simpa using hu.F,
          by simpa using hu.ARG⟩
end Sys2Proof.Machine
end

