-- ==== Sys2Proof/Laws/Runs.lean ====
section
/-! SUPPORT. What a step does in each situation, and runs of the system: a run is cut anywhere, and the steps of a busy
engine are its events. -/

namespace Sys2Proof.Machine

/-! ### A step -/

theorem step_reset {s : State} (hr : s.rst = true) : step s = .next s.resetEngine := by simp [step, hr]

theorem step_faulted {s : State} {a : Nat} (hr : s.rst = false) (hf : s.faultRec = some a) :
    step s = .fault (.storeRange a s) := by simp [step, hr, hf]

theorem step_wait {s : State} (hr : s.rst = false) (hf : s.faultRec = none) (hq : s.seq = .idle) (hc : s.cmd = none) :
    step s = .next s := by simp [step, hr, hf, hq, hc]

theorem step_begin {s : State} {w : Word} (hr : s.rst = false) (hf : s.faultRec = none) (hq : s.seq = .idle)
    (hc : s.cmd = some w) (hb : s.byEvent = true) : step s = .next (s.begin w) := by simp [step, hr, hf, hq, hc, hb]

theorem step_exec {s : State} {w : Word} {i : Instr} (hr : s.rst = false) (hf : s.faultRec = none) (hq : s.seq = .idle)
    (hc : s.cmd = some w) (hb : s.byEvent = false) (hd : decode w = .ok i) : step s = exec i s := by
  simp [step, hr, hf, hq, hc, hb, hd]

theorem step_refuse {s : State} {w : Word} {r : Reject} (hr : s.rst = false) (hf : s.faultRec = none)
    (hq : s.seq = .idle) (hc : s.cmd = some w) (hb : s.byEvent = false) (hd : decode w = .error r) :
    step s = .next (s.refuseWord w) := by
  simp [step, hr, hf, hq, hc, hb, hd]

theorem step_busy {s : State} {k : Nat} (hr : s.rst = false) (hf : s.faultRec = none) (hq : s.seq = .busy k) :
    step s = s.event := by
  simp [step, hr, hf, hq]

theorem step_take {s : State} (hr : s.rst = false) (hf : s.faultRec = none) (hq : s.seq = .resp)
    (hy : s.rspReady = true) : step s = .next s.takeResponse := by
  simp [step, hq, hr, hf, hy]

/-! ### Runs -/

theorem State.run_append (l m : List Action) (s : State) : s.run (l ++ m) = (s.run l).bind (State.run m) := by
  induction l generalizing s with
  | nil => rfl
  | cons a l ih => simp only [List.cons_append, State.run]; cases s.act a <;> simp [ih]

theorem State.act_step {s t : State} (h : step s = .next t) : s.act .step = some t := by simp [State.act, h]

/-- A step and then n steps. -/
theorem State.run_steps_succ {s t : State} (h : step s = .next t) (n : Nat) :
    s.run (List.replicate (n + 1) .step) = t.run (List.replicate n .step) := by
  simp [List.replicate_succ, State.run, State.act_step h]

/-- Where a busy engine's event answers a next state, its step does; nothing was due, or one event happened. -/
theorem State.events_succ {n k : Nat} {s t : State} (hr : s.rst = false) (hf : s.faultRec = none) (hq : s.seq = .busy k)
    (he : State.events (n + 1) s = .next t) :
    ∃ u, step s = .next u ∧ State.events n u = .next t ∧ ((s.request = none ∧ u = s) ∨ ∃ e, EventStep s u e) := by
  simp only [State.events] at he
  cases hev : s.event with
  | fault e => rw [hev] at he; cases he
  | refused e => rw [hev] at he; cases he
  | next u =>
    rw [hev, andThen_next] at he
    exact ⟨u, by rw [step_busy hr hf hq, hev], he, State.event_next hev⟩

/-- n events inside a transaction are n steps. -/
theorem State.run_events {n k : Nat} {s t : State} (hr : s.rst = false) (hf : s.faultRec = none) (hq : s.seq = .busy k)
    (he : State.events n s = .next t) (ht : t.seq = .busy (k + n)) :
    s.run (List.replicate n .step) = some t ∧ t.log.length = s.log.length + n := by
  induction n generalizing s k with
  | zero => injection he with he; subst he; exact ⟨rfl, rfl⟩
  | succ n ih =>
    obtain ⟨u, hst, hu, h⟩ := State.events_succ hr hf hq he
    rw [State.run_steps_succ hst]
    rcases h with ⟨h1, rfl⟩ | ⟨e, h⟩
    · exfalso
      have hev : u.event = .next u := by rw [← step_busy hr hf hq, hst]
      have : ∀ m, State.events m u = .next u := by
        intro m; induction m with
        | zero => rfl
        | succ m ih => simp [State.events, hev, ih]
      rw [this] at hu; injection hu with hu; subst hu; rw [hq] at ht; simp at ht
    · rcases h.moves with ⟨-, -, h2⟩ | ⟨h1, st, r, -, h2, -⟩
      · have := ih (by rw [h.keeps.rst, hr]) (by rw [h.keeps.faultRec, hf]) (k := k + 1) (by rw [h2, hq]; rfl) hu
          (by rw [ht]; congr 1; omega)
        refine ⟨this.1, ?_⟩
        rw [this.2, h.log]; simp; omega
      · exfalso; rw [State.events_rest h1] at hu; injection hu with hu; subst hu; rw [h2] at ht; cases ht

/-- Events up to the response are at most as many steps. -/
theorem State.run_events_resp {n k : Nat} {s t : State} (hr : s.rst = false) (hf : s.faultRec = none)
    (hq : s.seq = .busy k) (he : State.events n s = .next t) (ht : t.seq = .resp) :
    ∃ m, m ≤ n ∧ s.run (List.replicate m .step) = some t := by
  induction n generalizing s k with
  | zero => injection he with he; subst he; rw [hq] at ht; cases ht
  | succ n ih =>
    obtain ⟨u, hst, hu, h⟩ := State.events_succ hr hf hq he
    rcases h with ⟨h1, rfl⟩ | ⟨e, h⟩
    · exact (ih hr hf hq hu).imp fun m hm => ⟨by omega, hm.2⟩
    · rcases h.moves with ⟨-, -, h2⟩ | ⟨h1, st, r, -, h2, -⟩
      · obtain ⟨m, h3, h4⟩ := ih (by rw [h.keeps.rst, hr]) (by rw [h.keeps.faultRec, hf]) (k := k + 1)
          (by rw [h2, hq]; rfl) hu
        exact ⟨m + 1, by omega, by rw [State.run_steps_succ hst]; exact h4⟩
      · rw [State.events_rest h1] at hu; injection hu with hu; subst hu
        exact ⟨1, by omega, by rw [State.run_steps_succ hst 0]; rfl⟩

/-- A latched word is the word that was accepted. -/
theorem State.command_of_fields {s : State} {w : Word} (h1 : s.OP = opField w) (h2 : s.RSV = rsvField w)
    (h3 : s.ARG = argField w) : s.command = w := by
  rw [State.command, h1, h2, h3]; exact word_eq_fields w

end Sys2Proof.Machine
end

