-- ==== Sys2Proof/Tests/Slice0.lean ====
section
/-! SUPPORT. Tests on small states, with results from 95_test_vectors and from the spec's encodings, and for each statement
with hypotheses a witness that meets them together. -/

namespace Sys2Proof.Tests

open Sys2Proof.Machine

/-! ### Helpers -/

/-- The reset state over a store with these metadata fields, written out little-endian (10_state R20). -/
def ring (head tail pageSize : Nat) (flip : Byte) : State :=
  { State.reset with
    store :=
      [(0x7FE4, BitVec.ofNat 8 head), (0x7FE5, BitVec.ofNat 8 (head / 256)), (0x7FE6, BitVec.ofNat 8 tail),
        (0x7FE7, BitVec.ofNat 8 (tail / 256)), (0x7FE8, BitVec.ofNat 8 pageSize),
        (0x7FE9, BitVec.ofNat 8 (pageSize / 256)), (0x7FEA, flip)].filter fun c => decide (c.2 ≠ 0) }

/-- `s` with a word presented. -/
def withCmd (s : State) (w : Word) (byEvent : Bool) : State := { s with cmd := some w, byEvent := byEvent }

/-- The state a step answers, if it answers one. -/
def after (r : Result) : Option State :=
  match r with
  | .next s => some s
  | .fault _ => none
  | .refused _ => none

/-- The address of a StoreRange fault, if a step faults. -/
def faultAddr (r : Result) : Option Nat :=
  match r with
  | .next _ => none
  | .fault (.storeRange a _) => some a
  | .refused _ => none

/-- The persisted fields (H, T, P, F). -/
def fields (s : State) : Nat × Nat × Nat × Nat := (s.head.toNat, s.tail.toNat, s.pageSize.toNat, s.flip.toNat)

theorem next_of_after {r : Result} (h : (after r).isSome = true) : ∃ t, r = .next t := by
  cases r with
  | next t => exact ⟨t, rfl⟩
  | fault e => exact absurd h (by simp [after])
  | refused e => exact absurd h (by simp [after])

/-! ### Well-formedness -/

/-- A page size of 0 is outside R83's range: the check refuses the term. -/
theorem test_wellFormed_refuses_format_zero : (Instr.format 0).wellFormed = false := by decide

theorem test_wellFormed_accepts :
    (Instr.format 1).wellFormed = true ∧ (Instr.write 0).wellFormed = true ∧ Instr.read.wellFormed = true
      ∧ Instr.isFull.wellFormed = true ∧ Instr.containsData.wellFormed = true
      ∧ Instr.isInitialized.wellFormed = true := by decide

/-- R87's ranges: 1..65535 for FORMAT, 0..65535 for WRITE. -/
theorem test_asmLine_refuses_out_of_range :
    (AsmLine.format 0).wellFormed = false ∧ (AsmLine.format 65536).wellFormed = false
      ∧ (AsmLine.write 65536).wellFormed = false := by decide

/-! ### Decoding: words written out from R80 to R83, ARG then RSV then OP -/

theorem test_decode_format : decode 0b0000000001000000000000000000_0001 = .ok (.format 64) := by decide
theorem test_decode_write : decode 0b0000000000001010000000000000_0010 = .ok (.write 10) := by decide
theorem test_decode_read : decode 0b0000000000000000000000000000_0011 = .ok .read := by decide
theorem test_decode_isFull : decode 0b0000000000000000000000000000_0100 = .ok .isFull := by decide
theorem test_decode_containsData : decode 0b0000000000000000000000000000_0101 = .ok .containsData := by decide
theorem test_decode_isInitialized : decode 0b0000000000000000000000000000_0110 = .ok .isInitialized := by decide

/-- 95_test_vectors V-D: the encoder's words. -/
theorem test_encode : encode (.format 64) = 0x00400001 ∧ encode (.write 65535) = 0xFFFF0002 ∧ encode .read = 0x00000003
    ∧ encode .isInitialized = 0x00000006 := by decide

/-- One wrong bit in RSV, a reserved OP, an ARG where none is taken. -/
theorem test_decode_refuses :
    decode 0x00400011 = .error (.reservedBits 1) ∧ decode 0x00000007 = .error (.reservedOpcode 7)
      ∧ decode 0x00010003 = .error (.argument 3 1) := by decide

/-- decodeTableWord keeps the low nbits bits of the number. -/
theorem test_decodeTableWord : decodeTableWord 32 0x00400001 = some (.format 64) ∧ decodeTableWord 8 0xFF03 = some .read
    ∧ decodeTableWord 32 0 = none := by decide

/-- A presented word is the first instruction after reset (log 9). -/
theorem test_withFetchWord : (after (step (State.reset.withFetchWord 32 0x00000004))).map (·.rspWord) = some 0x00 := by
  decide

/-! ### FORMAT -/

/-- 95_test_vectors V-F5. -/
theorem test_format_zero : (after (exec (.format 0) (ring 64 0 64 0))).map (fun t => (t.rspWord, fields t))
    = some (0x04, 64, 0, 64, 0) := by decide

/-- 95_test_vectors V-F6, up to the page size (the magic writes follow): from (32704, 128, 64, 1). -/
theorem test_format_fields :
    (after (State.events 7 ((ring 32704 128 64 1).begin 0x00400001))).map fields = some (0, 0, 64, 0) := by decide

/-! ### WRITE -/

/-- 95_test_vectors V-W9: LEN = 2, P = 4: two bytes of HB, then PAD. -/
theorem test_write_pads :
    (after (exec (.write 2) { ring 0 0 4 0 with hb := [(0, 0x11), (1, 0x22), (2, 0x33)] })).map
        (fun t => (bytesAt t.store 0 4, t.rspWord, fields t))
      = some ([0x11, 0x22, 0x00, 0x00], 0x01, 4, 0, 4, 0) := by decide

/-- 95_test_vectors V-W4: the spurious full state fails and commits the wrap. -/
theorem test_write_wrapFull :
    (after (exec (.write 64) (ring 32704 64 64 0))).map (fun t => (t.rspWord, fields t)) = some (0x00, 0, 64, 64, 1) := by
  decide

/-! ### READ -/

/-- GetPage from tail (43_read R171, R_LINEAR_DATA), as V-R1 with P = 2. -/
theorem test_read_linear :
    (after (exec .read { ring 4 2 2 0 with store := [(2, 0xAA), (3, 0xBB)] ++ (ring 4 2 2 0).store })).map
        (fun t => (bytesAt t.hb 0 3, t.rspWord, fields t))
      = some ([0xAA, 0xBB, 0x00], 0x01, 4, 4, 2, 0) := by decide

/-- 95_test_vectors V-R4: the drained lap answers 0 and commits the wrap. -/
theorem test_read_wrapEmpty :
    (after (exec .read (ring 0 32704 64 1))).map (fun t => (t.rspWord, fields t)) = some (0x00, 0, 0, 64, 0) := by decide

/-! ### Queries -/

/-- 95_test_vectors V-Q3 (spurious full) and V-Q8. -/
theorem test_isFull : (after (exec .isFull (ring 32704 64 64 0))).map (·.rspWord) = some 0x01
    ∧ (after (exec .isFull (ring 0 64 64 1))).map (·.rspWord) = some 0x00 := by decide

/-- 95_test_vectors V-Q7 (drained lap) and V-Q5 (full, H = T). -/
theorem test_containsData : (after (exec .containsData (ring 0 32704 64 1))).map (·.rspWord) = some 0x00
    ∧ (after (exec .containsData (ring 0 0 64 1))).map (·.rspWord) = some 0x01 := by decide

/-- IS_INITIALIZED over an arbitrary MAGIC: it answers 1 when the four bytes are MAGIC's, low byte first (R196). -/
theorem test_isInitialized :
    ∃ t, exec .isInitialized (State.reset.storeField32 offMagic Config.magic) = .next t ∧ t.rspWord = 0x01 := by
  refine ⟨_, execIsInitialized_eq _, ?_⟩
  have h : (State.reset.storeField32 offMagic Config.magic).magic = Config.magic := by
    simp [State.magic, field32]
  rw [h]
  simp; decide

/-! ### Faults: 95_test_vectors V-I9, V-I10 -/

theorem test_write_storeRange : faultAddr (exec (.write 64) (ring 0x7FF0 0xFFFF 64 1)) = some 0x8000 := by decide

theorem test_read_storeRange : faultAddr (exec .read (ring 0x7FF0 0x7FD0 64 0)) = some 0x8000 := by decide

/-! ### Cuts: 95_test_vectors V-CUT2 and V-CUT4, with the seven reads of the fetch before -/

theorem test_cut_torn_head :
    (after (State.events 8 ((ring 32704 128 64 0).begin 0x00400002))).map fields = some (32512, 128, 64, 0) := by decide

theorem test_cut_after_wrap :
    (after (State.events 10 ((ring 32704 128 64 0).begin 0x00400002))).map fields = some (0, 128, 64, 1) := by decide

/-! ### Witnesses: for each statement with hypotheses, a state and operands that meet them together

A statement's clauses have one witness each, at a boundary of their range. Where a hypothesis is that a step or a command
answers a next state, the witness shows that it does. -/

/-- The word 0x00000007, the first reserved opcode, presented to an idle engine at either granularity. -/
theorem test_witness_IllegalWordsAreRefused :
    (¬ ∃ i, decode 0x00000007 = .ok i)
      ∧ (let s := withCmd State.reset 0x00000007 false
         s.rst = false ∧ s.faultRec = none ∧ s.seq = .idle ∧ s.cmd = some 0x00000007 ∧ s.byEvent = false)
      ∧ (let s := withCmd State.reset 0x00000007 true
         s.rst = false ∧ s.faultRec = none ∧ s.seq = .idle ∧ s.cmd = some 0x00000007 ∧ s.byEvent = true) := by
  refine ⟨?_, by decide⟩
  rintro ⟨i, h⟩
  rw [show decode 0x00000007 = .error (.reservedOpcode 7) by decide] at h
  exact absurd h (by simp)

/-- An illegal word: RSV is 1 and OP is FORMAT's. -/
theorem test_witness_TransactionIsItsEvents : ¬ ∃ i, decode 0x00000011 = .ok i := by
  rintro ⟨i, h⟩
  rw [show decode 0x00000011 = .error (.reservedBits 1) by decide] at h
  exact absurd h (by simp)

/-- The ends of the operand ranges of R87, and the first value past them. -/
theorem test_witness_AssemblerLinesDecode :
    (AsmLine.format 1).assemble = some 0x00010001 ∧ (AsmLine.format 65535).assemble = some 0xFFFF0001
      ∧ (AsmLine.write 0).assemble = some 0x00000002 ∧ (AsmLine.write 65535).assemble = some 0xFFFF0002
      ∧ (AsmLine.format 65536).assemble = none ∧ (AsmLine.write 65536).assemble = none := by decide

/-- A presented READ, in both granularities, and a busy engine. -/
theorem test_witness_StepRunsThePresentedCommand :
    (let s := withCmd State.reset 0x00000003 false
     s.rst = false ∧ s.faultRec = none ∧ s.seq = .idle ∧ s.cmd = some 0x00000003 ∧ s.byEvent = false)
      ∧ (let s := withCmd State.reset 0x00000003 true
         s.rst = false ∧ s.faultRec = none ∧ s.seq = .idle ∧ s.cmd = some 0x00000003 ∧ s.byEvent = true)
      ∧ decode 0x00000003 = .ok .read
      ∧ (let s := State.reset.begin 0x00000003
         s.rst = false ∧ s.faultRec = none ∧ s.seq = .busy 0) := by decide

/-- A presented word; and a step of an engine that is not idle, with a word waiting. -/
theorem test_witness_AcceptLatchesTheWord :
    (let s := withCmd State.reset 0xFFFF0002 true
     s.rst = false ∧ s.faultRec = none ∧ s.seq = .idle ∧ s.cmd = some 0xFFFF0002 ∧ s.byEvent = true)
      ∧ (let s := withCmd (State.reset.respond .ok true) 0xFFFF0002 true
         s.seq ≠ .idle ∧ (after (step s)).isSome = true) := by decide

/-- Idle without a command; a response not yet taken; a response the host is ready to take. -/
theorem test_witness_EngineWaits :
    (State.reset.rst = false ∧ State.reset.faultRec = none ∧ State.reset.seq = .idle ∧ State.reset.cmd = none)
      ∧ (let s := State.reset.respond .ok true
         s.rst = false ∧ s.faultRec = none ∧ s.seq = .resp ∧ s.rspReady = false)
      ∧ (let s := { State.reset.respond .ok true with rspReady := true }
         s.rst = false ∧ s.faultRec = none ∧ s.seq = .resp ∧ s.rspReady = true) := by decide

/-- A faulted engine with reset asserted. -/
theorem test_witness_ResetForcesIdle : ({ State.reset with rst := true, faultRec := some 0x8000 } : State).rst = true := by
  decide

/-- A canonical store and host buffer with bytes at the ends of their address spaces. -/
theorem test_witness_ResetMeetsTheInvariant :
    Memory.wf [(0, 1), (0x7FFF, 0xFF)] ∧ Memory.below Config.capacity [(0, 1), (0x7FFF, 0xFF)]
      ∧ Memory.wf [(0, 1), (0xFFFF, 0xFF)] ∧ Memory.below hbSize [(0, 1), (0xFFFF, 0xFF)] := by decide

/-- A well-formed state that steps: a whole WRITE, and an event of one. -/
theorem test_witness_StepKeepsTheInvariant :
    (let s := withCmd (ring 0 0 2 0) 0x00020002 false
     s.wf ∧ (after (step s)).isSome = true)
      ∧ (let s := (ring 0 0 2 0).begin 0x00020002
         s.wf ∧ (after (step s)).isSome = true) := by decide

/-- Each move, from the reset state, at the last address of its space. -/
theorem test_witness_MovesKeepTheInvariant :
    State.reset.wf ∧ (State.reset.move (.present 3)).isSome = true ∧ (State.reset.move (.setReady true)).isSome = true
      ∧ (State.reset.move (.hostWrite 0xFFFF 1)).isSome = true
      ∧ (State.reset.move (.externalWrite 0x7FFF 1)).isSome = true
      ∧ (State.reset.move .assertReset).isSome = true ∧ (State.reset.move (.setByEvent false)).isSome = true := by decide

/-- A state of each value of SEQ that steps, event by event; and one with reset asserted. -/
theorem test_witness_SequencerTransitions :
    (let s := withCmd State.reset 0x00000003 true
     s.rst = false ∧ s.wf ∧ s.byEvent = true ∧ s.seq = .idle ∧ (after (step s)).isSome = true)
      ∧ (let s := (withCmd State.reset 0x00000003 true).begin 0x00000003
         s.rst = false ∧ s.wf ∧ s.byEvent = true ∧ s.seq = .busy 0 ∧ (after (step s)).isSome = true)
      ∧ (let s := (withCmd State.reset 0x00000003 true).respond .ok true
         s.rst = false ∧ s.wf ∧ s.byEvent = true ∧ s.seq = .resp ∧ (after (step s)).isSome = true)
      ∧ (after (step { State.reset with rst := true })).isSome = true := by decide

/-- A busy well-formed engine, and one whose next access faults. -/
theorem test_witness_BusyEngineIssuesOneEvent :
    (let s := State.reset.begin 0x00000003
     s.wf ∧ s.rst = false ∧ s.seq = .busy 0 ∧ (after (step s)).isSome = true)
      ∧ (let s := { State.reset with seq := .busy 0, point := .put, H := 0x8000, P := 1 }
         s.wf ∧ s.rst = false ∧ s.seq = .busy 0 ∧ faultAddr (step s) = some 0x8000) := by decide

/-- The commands of the clauses that need a next state: FORMAT and IS_INITIALIZED, WRITE, READ from a well-formed state. -/
theorem test_witness_FetchReadsSevenBytes :
    (∃ t, exec (.format 1) State.reset = .next t) ∧ (∃ t, exec .isInitialized State.reset = .next t)
      ∧ (∃ t, exec (.write 2) (ring 0 0 2 0) = .next t) ∧ (∃ t, exec .read (ring 4 2 2 0) = .next t) :=
  ⟨next_of_after (by rfl), next_of_after (by rfl), next_of_after (by decide), next_of_after (by decide)⟩

/-- A cut after 8 events of V-W3, and one after none. -/
theorem test_witness_CutLeavesTheWritesIssuedBefore :
    (∃ t, State.events 8 ((ring 32704 128 64 0).begin 0x00400002) = .next t)
      ∧ ∃ t, State.events 0 (State.reset.begin 0) = .next t :=
  ⟨next_of_after (by decide), next_of_after (by decide)⟩

/-- IS_FULL's last store read, before its response. -/
theorem test_witness_ReadsSeeTheWritesBefore :
    (after (exec .isFull (ring 0 64 64 1))).map (fun t => t.log.take 2)
      = some ([.respond 0x00] ++ [.storeRead 0x7FEA 0x01]) := by decide

theorem test_witness_OneResponseEndsEachCommand :
    (∃ t, exec (.format 0) State.reset = .next t) ∧ ∃ t, exec .read State.reset = .next t :=
  ⟨next_of_after (by decide), next_of_after (by decide)⟩

/-- Two states that differ in every working register; a next state and a fault from them. -/
theorem test_witness_WorkingRegistersAreDead :
    (let s := ring 0 0 2 0
     let s' := { s with H := 1, T := 2, P := 3, F := 4, M := 5, I := 6, OP := 7 }
     s.store = s'.store ∧ s.hb = s'.hb ∧ (after (exec (.write 2) s)).isSome = true)
      ∧ faultAddr (exec .read (ring 0x7FF0 0x7FD0 64 0)) = some 0x8000 := by decide

/-- The ends of the page size's range, and of the cuts that leave the fields whole. -/
theorem test_witness_Format : (1 : Half) ≠ 0 ∧ (65535 : Half) ≠ 0 ∧ 7 ≤ 7 ∧ 7 ≤ 11 ∧ 11 ≤ 11 := by decide

/-- A state of each clause of R151: a page that ends at MS; the strict room test just met and just missed; a lapped page
that ends at C; the last full state. -/
theorem test_witness_WriteFollowsItsLeaf :
    (let s := ring 32672 0 64 0
     s.flip = 0 ∧ s.head.toNat + s.pageSize.toNat ≤ 0x7FE0)
      ∧ (let s := ring 32673 65 64 0
         s.flip = 0 ∧ 0x7FE0 < s.head.toNat + s.pageSize.toNat ∧ s.pageSize.toNat < s.tail.toNat ∧ fits 0 s.pageSize)
      ∧ (let s := ring 32673 64 64 0
         s.flip = 0 ∧ 0x7FE0 < s.head.toNat + s.pageSize.toNat ∧ ¬ s.pageSize.toNat < s.tail.toNat)
      ∧ (let s := ring 32704 32705 64 0xFF
         s.flip ≠ 0 ∧ s.head.toNat < s.tail.toNat ∧ fits s.head s.pageSize)
      ∧ (let s := ring 64 64 64 1
         s.flip ≠ 0 ∧ ¬ s.head.toNat < s.tail.toNat) := by decide

theorem test_witness_WriteResultAndFrame :
    (let s := ring 32704 65 64 0
     s.writeLeaf.result = true ∧ fits s.writeBase s.pageSize)
      ∧ (ring 32704 64 64 0).writeLeaf = .wrapFull ∧ (ring 64 64 64 1).writeLeaf = .lappedFull := by decide

/-- The first page past C, a head past C, and a page larger than C after a wrap. -/
theorem test_witness_WritePastTheStoreFaults :
    (let s := ring 32705 32706 64 1
     s.writeLeaf.result = true ∧ ¬ fits s.writeBase s.pageSize)
      ∧ (let s := ring 40000 40001 1 1
         s.writeLeaf.result = true ∧ ¬ fits s.writeBase s.pageSize)
      ∧ (let s := ring 0 65535 32769 0
         s.writeLeaf = .wrapRoom ∧ s.writeLeaf.result = true ∧ ¬ fits s.writeBase s.pageSize) := by decide

/-- A state of each clause of R171. -/
theorem test_witness_ReadFollowsItsLeaf :
    (let s := ring 32705 32704 64 0
     s.flip = 0 ∧ s.tail.toNat < s.head.toNat ∧ fits s.tail s.pageSize)
      ∧ (let s := ring 64 64 64 0
         s.flip = 0 ∧ ¬ s.tail.toNat < s.head.toNat)
      ∧ (let s := ring 1 32673 64 1
         s.flip ≠ 0 ∧ 0x7FE0 < s.tail.toNat + s.pageSize.toNat ∧ 0 < s.head.toNat ∧ fits 0 s.pageSize)
      ∧ (let s := ring 0 32673 64 1
         s.flip ≠ 0 ∧ 0x7FE0 < s.tail.toNat + s.pageSize.toNat ∧ s.head.toNat = 0)
      ∧ (let s := ring 0 32672 64 1
         s.flip ≠ 0 ∧ s.tail.toNat + s.pageSize.toNat ≤ 0x7FE0) := by decide

theorem test_witness_ReadResultAndFrame :
    (let s := ring 1 32704 64 1
     s.readLeaf.result = true ∧ fits s.readBase s.pageSize)
      ∧ (ring 0 32704 64 1).readLeaf = .wrapEmpty ∧ (ring 64 64 64 0).readLeaf = .linearEmpty := by decide

theorem test_witness_ReadPastTheStoreFaults :
    (let s := ring 40000 32705 64 0
     s.readLeaf.result = true ∧ ¬ fits s.readBase s.pageSize)
      ∧ (let s := ring 1 0 32769 1
         s.readLeaf = .wrapData ∧ s.readLeaf.result = true ∧ ¬ fits s.readBase s.pageSize) := by decide

/-- Each query's opcode in a word that is the query's, and in one that is not. -/
theorem test_witness_QueryWords :
    (0x00000004 : Word).toNat % 16 = 4 ∧ (0x00010004 : Word).toNat % 16 = 4 ∧ (0x00010004 : Word) ≠ 0x00000004
      ∧ (0x00000005 : Word).toNat % 16 = 5 ∧ (0x00000015 : Word).toNat % 16 = 5 ∧ (0x00000015 : Word) ≠ 0x00000005
      ∧ (0x00000006 : Word).toNat % 16 = 6 ∧ (0x80000006 : Word).toNat % 16 = 6
      ∧ (0x80000006 : Word) ≠ 0x00000006 := by decide

theorem test_witness_QueriesMutateNothing :
    (∃ t, exec .isFull State.reset = .next t) ∧ (∃ t, exec .containsData State.reset = .next t)
      ∧ (∃ t, exec .isInitialized State.reset = .next t) ∧ ∃ t, exec (.write 2) (ring 0 0 2 0) = .next t :=
  ⟨next_of_after (by decide), next_of_after (by decide), next_of_after (by rfl), next_of_after (by decide)⟩

/-- A query and then the command it foretells, both completing. -/
theorem test_witness_QueriesForetellResults :
    ((after (exec .isFull (ring 0 0 2 0))).bind fun t => after (exec (.write 2) t.takeResponse)).isSome = true
      ∧ ((after (exec .containsData (ring 4 2 2 0))).bind fun t => after (exec .read t.takeResponse)).isSome = true := by
  decide

theorem test_witness_EventCountsOfEachPath :
    (∃ t, exec (.format 1) State.reset = .next t) ∧ (∃ t, exec (.format 0) State.reset = .next t)
      ∧ (∃ t, exec (.write 1) (ring 0 0 2 0) = .next t) ∧ (∃ t, exec .read (ring 4 2 2 0) = .next t)
      ∧ ∃ t, exec .isInitialized State.reset = .next t :=
  ⟨next_of_after (by rfl), next_of_after (by decide), next_of_after (by decide), next_of_after (by decide),
    next_of_after (by rfl)⟩

/-- INV's conditions, decided on numbers. -/
theorem inv_of_decide {s : State} (h : (1 ≤ s.pageSize.toNat ∧ s.head.toNat % s.pageSize.toNat = 0
      ∧ s.tail.toNat % s.pageSize.toNat = 0 ∧ s.head.toNat ≤ cap s.pageSize.toNat * s.pageSize.toNat
      ∧ s.tail.toNat ≤ cap s.pageSize.toNat * s.pageSize.toNat ∧ (s.flip = flipClear ∨ s.flip = flipSet)
      ∧ (s.flip = flipClear → s.tail.toNat ≤ s.head.toNat) ∧ (s.flip = flipSet → s.head.toNat ≤ s.tail.toNat))) :
    s.inv :=
  ⟨h.1, h.2.1, h.2.2.1, h.2.2.2.1, h.2.2.2.2.1, h.2.2.2.2.2.1, h.2.2.2.2.2.2.1, h.2.2.2.2.2.2.2⟩

/-- Well-formed states: after FORMAT, at the lap end (P divides MS), lapped and full, and of capacity zero. -/
theorem test_witness_InvIsKeptAndNothingFaults :
    (ring 0 0 1 0).inv ∧ (ring 32736 0 10912 0).inv ∧ (ring 64 64 64 1).inv ∧ (ring 0 0 32737 0).inv :=
  ⟨inv_of_decide (by decide), inv_of_decide (by decide), inv_of_decide (by decide), inv_of_decide (by decide)⟩

/-- A command of each clause, from a well-formed state: FORMAT, WRITE, and one that is neither. -/
theorem test_witness_InvProtectsTheMetadata :
    ((ring 0 0 2 0).inv ∧ (∃ t, exec (.format 1) (ring 0 0 2 0) = .next t) ∧ (∀ len, Instr.format 1 ≠ .write len))
      ∧ ((∀ p, Instr.write 2 ≠ .format p) ∧ ∃ t, exec (.write 2) (ring 0 0 2 0) = .next t)
      ∧ ((ring 4 2 2 0).inv ∧ (∀ p, Instr.read ≠ .format p) ∧ (∀ len, Instr.read ≠ .write len)
        ∧ ∃ t, exec .read (ring 4 2 2 0) = .next t) :=
  ⟨⟨inv_of_decide (by decide), next_of_after (by rfl), by simp⟩, ⟨by simp, next_of_after (by decide)⟩,
    inv_of_decide (by decide), by simp, by simp, next_of_after (by decide)⟩

/-- A well-formed state whose WRITE succeeds, and one whose WRITE fails. -/
theorem test_witness_WriteAppendsToTheQueue :
    ((ring 0 0 2 0).inv ∧ (after (exec (.write 2) (ring 0 0 2 0))).map (·.RES) = some true)
      ∧ (ring 64 64 64 1).inv ∧ (after (exec (.write 2) (ring 64 64 64 1))).map (·.RES) = some false :=
  ⟨⟨inv_of_decide (by decide), by decide⟩, inv_of_decide (by decide), by decide⟩

/-- A well-formed state whose READ succeeds, and one whose READ fails. -/
theorem test_witness_ReadRemovesTheOldestRecord :
    ((ring 4 2 2 0).inv ∧ (after (exec .read (ring 4 2 2 0))).map (·.RES) = some true)
      ∧ (ring 0 32704 64 1).inv ∧ (after (exec .read (ring 0 32704 64 1))).map (·.RES) = some false :=
  ⟨⟨inv_of_decide (by decide), by decide⟩, inv_of_decide (by decide), by decide⟩

/-- A full state, an empty one and the spurious one, with both queries answering. -/
theorem test_witness_QueriesCountPages :
    ((ring 32704 0 64 0).inv ∧ (after (exec .isFull (ring 32704 0 64 0))).isSome = true)
      ∧ ((ring 0 32704 64 1).inv ∧ (after (exec .containsData (ring 0 32704 64 1))).isSome = true)
      ∧ (ring 32704 64 64 0).inv ∧ (after (exec .isFull (ring 32704 64 64 0))).isSome = true :=
  ⟨⟨inv_of_decide (by decide), by decide⟩, ⟨inv_of_decide (by decide), by decide⟩, inv_of_decide (by decide), by decide⟩

/-- V-W4's state, and the smallest capacity, CAP = 1. -/
theorem test_witness_SpuriousFullRetrySucceeds :
    (let s := ring 32704 64 64 0
     s.inv ∧ s.flip = 0 ∧ s.tail = s.pageSize ∧ s.head.toNat = cap s.pageSize.toNat * s.pageSize.toNat
       ∧ 1 ≤ cap s.pageSize.toNat)
      ∧ (let s := ring 32736 32736 32736 0
         s.inv ∧ s.flip = 0 ∧ s.tail = s.pageSize ∧ s.head.toNat = cap s.pageSize.toNat * s.pageSize.toNat
           ∧ 1 ≤ cap s.pageSize.toNat) :=
  ⟨⟨inv_of_decide (by decide), by decide⟩, inv_of_decide (by decide), by decide⟩

theorem test_witness_EqualPointersReading :
    ((ring 64 64 64 0).inv ∧ (ring 64 64 64 0).head = (ring 64 64 64 0).tail ∧ (ring 64 64 64 0).flip = 0)
      ∧ (ring 64 64 64 1).inv ∧ (ring 64 64 64 1).head = (ring 64 64 64 1).tail ∧ (ring 64 64 64 1).flip ≠ 0 :=
  ⟨⟨inv_of_decide (by decide), by decide⟩, inv_of_decide (by decide), by decide⟩

/-- The smallest page size of capacity zero, with either flag. -/
theorem test_witness_CapacityZeroMovesNothing :
    ((ring 0 0 32737 0).inv ∧ 0x7FE0 < (ring 0 0 32737 0).pageSize.toNat)
      ∧ (ring 0 0 32737 1).inv ∧ 0x7FE0 < (ring 0 0 32737 1).pageSize.toNat :=
  ⟨⟨inv_of_decide (by decide), by decide⟩, inv_of_decide (by decide), by decide⟩

/-- A well-formed state of each leaf that commits a wrap. -/
theorem test_witness_CutAfterWrapCommitKeepsRecords :
    ((ring 32704 128 64 0).inv ∧ (ring 32704 128 64 0).writeLeaf = .wrapRoom)
      ∧ ((ring 32704 64 64 0).inv ∧ (ring 32704 64 64 0).writeLeaf = .wrapFull)
      ∧ ((ring 64 32704 64 1).inv ∧ (ring 64 32704 64 1).readLeaf = .wrapData)
      ∧ (ring 0 32704 64 1).inv ∧ (ring 0 32704 64 1).readLeaf = .wrapEmpty :=
  ⟨⟨inv_of_decide (by decide), by decide⟩, ⟨inv_of_decide (by decide), by decide⟩,
    ⟨inv_of_decide (by decide), by decide⟩, inv_of_decide (by decide), by decide⟩

/-- The last store address, between commands and during one. -/
theorem test_witness_StoreIsSharedBetweenCommands :
    0x7FFF < Config.capacity ∧ State.reset.betweenCommands = true ∧ (State.reset.begin 3).seq = .busy 0
      ∧ Instr.read ∈ [Instr.write 0, .read, .isFull, .containsData] := by decide

/-- A busy engine at a step of the sequencer. -/
def busyAt (p : Point) : State := { State.reset with seq := .busy 0, point := p, P := 2, ARG := 1 }

/-- The kinds of the events after one step. -/
def kindsAfter (s : State) : Option (List EventKind) := (after (step s)).map fun t => t.log.map Event.kind

/-- A busy well-formed state that issues each kind of event. -/
theorem test_witness_PortsShowTheNextAccess :
    ((busyAt (.fetch 6)).wf ∧ kindsAfter (busyAt (.fetch 6)) = some [.storeRead])
      ∧ ((busyAt (.commitHead 1)).wf ∧ kindsAfter (busyAt (.commitHead 1)) = some [.storeWrite])
      ∧ ((busyAt .put).wf ∧ kindsAfter (busyAt .put) = some [.hbRead])
      ∧ ((busyAt (.getHb 7)).wf ∧ kindsAfter (busyAt (.getHb 7)) = some [.hbWrite])
      ∧ ((busyAt (.respond .ok true)).wf ∧ kindsAfter (busyAt (.respond .ok true)) = some [.respond])
      ∧ (busyAt .put).rst = false ∧ (busyAt .put).seq = .busy 0 :=
  ⟨by decide, by decide, by decide, by decide, by decide, by decide, by decide⟩

/-! ### Cuts and runs, from a powered-up machine -/

/-- The machine at power-up over the store of these fields: it steps event by event. -/
def poweredRing (head tail pageSize : Nat) (flip : Byte) : State :=
  State.powerUp (ring head tail pageSize flip).store []

/-- 95_test_vectors V-CUT2 as a run of the system: WRITE 64 presented, 1 step to accept it, 7 reads and 1 write, then
reset. -/
theorem test_cut_run : ((poweredRing 32704 128 64 0).run (cutAfter 0x00400002 9)).map (fun t => (fields t, t.seq, t.cmd))
    = some ((32512, 128, 64, 0), .idle, none) := by decide

/-- A run of two commands (one refused) to its end, with its responses in order: IS_FULL in V-Q3's state, and V-D1's
word. -/
theorem test_run_ends :
    ((poweredRing 32704 64 64 0).run (serve 0x00000004 10 ++ serve 0x00000000 3)).map
        (fun t => (decide (t.ended [0x00000004, 0x00000000]), t.endState.responses))
      = some (true, [0x01, 0x02]) := by decide

/-- Neither the reset state, nor one with a word waiting, nor one after a cut has ended a program of one word. -/
theorem test_not_ended :
    ¬ State.reset.ended [4] ∧ ¬ (withCmd State.reset 4 true).ended [4]
      ∧ ((poweredRing 0 0 64 0).run (cutAfter 4 3)).map (fun t => decide (t.ended [4])) = some false := by decide

/-- A command that completes, one that faults, and steps that accept no word: in RESP, and under reset. -/
theorem test_witness_AcceptedWordLeavesThePort :
    (∃ t, exec .isFull State.reset = .next t) ∧ faultAddr (exec .read (ring 0x7FF0 0x7FD0 64 0)) = some 0x8000
      ∧ (let s := withCmd (State.reset.respond .ok true) 3 true
         s.seq ≠ .idle ∧ (after (step s)).isSome = true)
      ∧ (after (step { withCmd State.reset 3 true with rst := true })).isSome = true :=
  ⟨next_of_after (by decide), by decide, by decide, by decide⟩

/-- A cut before the first event and one inside a wrap commit. -/
theorem test_witness_CutFallsBetweenAnyTwoEvents :
    (let s := poweredRing 32704 128 64 0
     s.awaiting ∧ s.byEvent = true
       ∧ (after (State.events 0 (s.begin 0x00400002))).map (·.seq) = some (.busy 0)
       ∧ (after (State.events 8 (s.begin 0x00400002))).map (·.seq) = some (.busy 8)) := by decide

/-- A transfer after a wrap commit and one without, cut at its last event and before its first. -/
theorem test_witness_CutInsideATransferKeepsRecords :
    ((ring 32704 128 64 0).inv ∧ (ring 32704 128 64 0).writeLeaf = .wrapRoom
        ∧ (ring 32704 128 64 0).writeLeaf.result = true ∧ 2 + 64 ≤ min (2 : Half).toNat 64 + 64)
      ∧ ((ring 0 0 64 0).inv ∧ (ring 0 0 64 0).writeLeaf.result = true)
      ∧ ((ring 64 32704 64 1).inv ∧ (ring 64 32704 64 1).readLeaf = .wrapData
        ∧ (ring 64 32704 64 1).readLeaf.result = true)
      ∧ (ring 64 0 64 0).inv ∧ (ring 64 0 64 0).readLeaf.result = true :=
  ⟨⟨inv_of_decide (by decide), by decide⟩, ⟨inv_of_decide (by decide), by decide⟩,
    ⟨inv_of_decide (by decide), by decide⟩, inv_of_decide (by decide), by decide⟩

/-- A query's and a fetch's events, and a state of each leaf that commits a wrap; the pointer advances have the witnesses
of CutInsideATransferKeepsRecords. -/
theorem test_witness_CutTearsThePointers :
    (∃ t, State.events 7 (State.reset.begin (encode .isFull)) = .next t)
      ∧ (∃ t, State.events 7 (State.reset.begin (encode .read)) = .next t)
      ∧ (ring 32704 128 64 0).writeLeaf = .wrapRoom ∧ (ring 32704 64 64 0).writeLeaf = .wrapFull
      ∧ (ring 64 32704 64 1).readLeaf = .wrapData ∧ (ring 0 32704 64 1).readLeaf = .wrapEmpty :=
  ⟨next_of_after (by decide), next_of_after (by decide), by decide⟩

/-- A step of each case: a wait, a response taken, a reset; a move; an ended program. -/
theorem test_witness_ResponsesOfARun :
    (after (step State.reset)).isSome = true
      ∧ (let s := { State.reset.respond .ok true with rspReady := true }
         s.seq = .resp ∧ s.rspReady = true ∧ (after (step s)).isSome = true)
      ∧ (after (step { State.reset with rst := true })).isSome = true
      ∧ (State.reset.move (.present 4)).isSome = true
      ∧ ({ State.reset with answered := [(4, 0x01)] } : State).ended [4] := by decide

/-- A legal word that completes and an illegal one, at each granularity. -/
theorem test_witness_EachCommandIsAnswered :
    State.reset.awaiting ∧ State.reset.byEvent = true ∧ ({ State.reset with byEvent := false } : State).awaiting
      ∧ decode 4 = .ok .isFull ∧ (after (exec .isFull State.reset)).isSome = true
      ∧ decode 0 = .error (.reservedOpcode 0) := by decide

/-- A program of a legal and an illegal word over a well-formed store. -/
theorem test_witness_ProgramRunsToItsEnd :
    [(0x00000004 : Word), 0] ≠ [] ∧ (poweredRing 0 0 1 0).inv ∧ (poweredRing 0 0 1 0).awaiting
      ∧ (poweredRing 0 0 1 0).answered = [] :=
  ⟨by decide, inv_of_decide (by decide), by decide⟩

end Sys2Proof.Tests
end

section
/-! SUPPORT. The settled statements on the scope of the model: the moves of the other agents keep the invariant, a whole
transaction is its events run one by one, and a cut falls between any two events of a run. -/

namespace Sys2Proof.Machine

/-! ### The moves of the other agents (00_scope R8) -/

/-- A host write to HB keeps the invariant (20_memory R60). -/
theorem State.hostWrite_wf {s t : State} {idx : Nat} {value : Byte} (hs : s.wf) (hm : s.hostWrite idx value = some t) :
    t.wf := by
  unfold State.hostWrite at hm
  split at hm
  · next hin =>
    obtain ⟨hstore, hbelow, hhb, hhbBelow, hrest⟩ := hs
    cases hm
    exact ⟨hstore, hbelow, Memory.write_wf hhb _ _, Memory.write_below hhbBelow hin.2 _, hrest⟩
  · cases hm

/-- A write of another agent to the store keeps the invariant (70_reset R252). -/
theorem State.externalWrite_wf {s t : State} {addr : Nat} {value : Byte} (hs : s.wf)
    (hm : s.externalWrite addr value = some t) : t.wf := by
  unfold State.externalWrite at hm
  split at hm
  · next hin =>
    obtain ⟨hstore, hbelow, hrest⟩ := hs
    cases hm
    exact ⟨Memory.write_wf hstore _ _, Memory.write_below hbelow hin.2 _, hrest⟩
  · cases hm

/-- Presenting a word changes the command port only (30_encoding R91). -/
theorem State.present_eq_some {s t : State} {w : Word} (hm : s.present w = some t) : t = { s with cmd := some w } := by
  unfold State.present at hm
  split at hm
  · exact (Option.some.inj hm).symm
  · cases hm

/-- Settles O12: the two writes go by the laws of the byte memory, and the other moves change no field the invariant
reads. -/
theorem movesKeepTheInvariant : Obligations.MovesKeepTheInvariant := by
  intro s t m hs hm
  cases m with
  | present w => obtain rfl := State.present_eq_some hm; exact hs
  | setReady ready => cases hm; exact hs
  | hostWrite idx value => exact State.hostWrite_wf hs hm
  | externalWrite addr value => exact State.externalWrite_wf hs hm
  | assertReset => cases hm; exact hs
  | setByEvent byEvent => cases hm; exact hs

/-! ### Bounded runs of events -/

/-- Some number of events, at most `b`, takes `s` to the outcome `r`. -/
def State.ReachesWithin (s : State) (b : Nat) (r : Result) : Prop := ∃ n, n ≤ b ∧ State.events n s = r

theorem State.ReachesWithin.mono {s : State} {b c : Nat} {r : Result} (h : s.ReachesWithin b r) (hbc : b ≤ c) :
    s.ReachesWithin c r :=
  h.imp fun _ hn => ⟨hn.1.trans hbc, hn.2⟩

/-- A stretch of `m` events and then a bounded run. -/
theorem State.ReachesWithin.after {s t : State} {m b : Nat} {r : Result} (hm : State.events m s = .next t)
    (h : t.ReachesWithin b r) : s.ReachesWithin (m + b) r := by
  obtain ⟨n, hn, he⟩ := h
  exact ⟨m + n, by omega, by rw [State.events_add, hm, andThen_next, he]⟩

theorem State.reachesWithin_respond (s : State) (st : Status) (r : Bool) :
    (s.setPoint (.respond st r)).ReachesWithin 1 (.next (s.respond st r)) :=
  ⟨1, le_rfl, by rw [State.events_one, State.event_respond]⟩

/-! ### Whole transactions as bounded runs (40_engine R100) -/

/-- The decoder gives back the command of an encoded word (30_encoding R85). -/
theorem decode_encode (i : Instr) : decode (encode i) = .ok i := by
  cases i <;> simp [decode, withoutArg, Instr.opcode, Instr.arg]

/-- A command that starts with the metadata fetch is, after its seven reads, where the leaf is chosen (40_engine R104). -/
theorem State.ReachesWithin.fetch {s : State} {i : Instr} {b : Nat} {r : Result}
    (hbegin : s.begin (encode i) = (s.accept (encode i)).setPoint (.fetch 0))
    (h : (s.fetched i).afterFetch.ReachesWithin b r) : (s.begin (encode i)).ReachesWithin (7 + b) r :=
  .after (hbegin ▸ State.events_fetch _) h

theorem State.format_reachesWithin (p : Half) (s : State) :
    (s.begin (encode (.format p))).ReachesWithin 12 (execFormat p s) := by
  by_cases hp : p = 0
  · have hbegin : s.begin (encode (.format p)) = (s.accept (encode (.format p))).setPoint (.respond .errArg false) := by
      rw [State.begin, decode_encode]; exact if_pos hp
    rw [hbegin, execFormat, if_pos hp]
    exact (State.reachesWithin_respond _ _ _).mono (by omega)
  · rw [State.begin_format s hp, execFormat, if_neg hp]
    exact .after (State.events_format _) (State.reachesWithin_respond _ _ _)

/-- After the fetch the latched opcode says whose transaction this is (40_engine R104). -/
theorem State.afterFetch_fetched_write (s : State) (len : Half) :
    (s.fetched (.write len)).afterFetch = (s.fetched (.write len)).chooseWrite := by
  simp [State.afterFetch, Instr.opcode]

theorem State.afterFetch_fetched_read (s : State) : (s.fetched .read).afterFetch = (s.fetched .read).chooseRead := by
  simp [State.afterFetch, Instr.opcode]

theorem State.afterFetch_fetched_isFull (s : State) :
    (s.fetched .isFull).afterFetch
      = (s.fetched .isFull).setPoint (.respond .ok (isFull s.head s.tail s.pageSize s.flip)) := by
  simp [State.afterFetch, Instr.opcode]

theorem State.afterFetch_fetched_containsData (s : State) :
    (s.fetched .containsData).afterFetch
      = (s.fetched .containsData).setPoint (.respond .ok (containsData s.head s.tail s.pageSize s.flip)) := by
  simp [State.afterFetch, Instr.opcode]

theorem State.isFull_reachesWithin (s : State) : (s.begin (encode .isFull)).ReachesWithin 8 (execIsFull s) := by
  have hbegin : s.begin (encode .isFull) = (s.accept (encode .isFull)).setPoint (.fetch 0) := by
    rw [State.begin, decode_encode]
  rw [execIsFull_eq]
  exact .fetch hbegin (State.afterFetch_fetched_isFull s ▸ State.reachesWithin_respond _ _ _)

theorem State.containsData_reachesWithin (s : State) :
    (s.begin (encode .containsData)).ReachesWithin 8 (execContainsData s) := by
  have hbegin : s.begin (encode .containsData) = (s.accept (encode .containsData)).setPoint (.fetch 0) := by
    rw [State.begin, decode_encode]
  rw [execContainsData_eq]
  exact .fetch hbegin (State.afterFetch_fetched_containsData s ▸ State.reachesWithin_respond _ _ _)

theorem State.isInitialized_reachesWithin (s : State) :
    (s.begin (encode .isInitialized)).ReachesWithin 5 (execIsInitialized s) := by
  rw [State.begin, decode_encode, execIsInitialized_eq]
  exact .after (State.events_magic _) (State.reachesWithin_respond _ _ _)

/-- WRITE's wrap commit and the page stored after it (42_write R151). -/
theorem State.wrapRoom_reachesWithin (s : State) :
    (s.setPoint (.wrapHead 0 true)).ReachesWithin (3 + (2 * s.P.toNat + 3))
      (andThen (s.wrapHead.putPage 0 s.ARG) fun t => .next ((t.commitHead (paeSum 0 s.P)).respond .ok true)) := by
  have hpage := State.events_storePage s.wrapHead
  simp only [State.wrapHead_H, State.wrapHead_P, State.wrapHead_ARG] at hpage
  exact .after (State.events_wrapHead s true) hpage

/-- READ's wrap commit and the page returned after it (43_read R171). -/
theorem State.wrapData_reachesWithin (s : State) :
    (s.setPoint (.wrapTail 0 true)).ReachesWithin (3 + (2 * s.P.toNat + 3))
      (andThen (s.wrapTail.getPage 0) fun t => .next ((t.commitTail (paeSum 0 s.P)).respond .ok true)) := by
  have hpage := State.events_loadPage s.wrapTail
  simp only [State.wrapTail_T, State.wrapTail_P] at hpage
  exact .after (State.events_wrapTail s true) hpage

/-- The rest of a WRITE, from the choice of its leaf on (42_write R151). -/
theorem State.chooseWrite_reachesWithin (len : Half) (s : State) :
    (s.fetched (.write len)).chooseWrite.ReachesWithin (3 + (2 * s.pageSize.toNat + 3)) (execWrite len s) := by
  have hpage : (s.fetched (.write len)).startPut.ReachesWithin _ _ := State.events_storePage _
  have hwrap := State.wrapRoom_reachesWithin (s.fetched (.write len))
  simp only [State.fetched_H, State.fetched_P, State.fetched_ARG, Instr.arg] at hpage hwrap
  simp only [execWrite_eq, State.chooseWrite, State.fetched_H, State.fetched_T, State.fetched_P, State.fetched_F,
    State.writeLeaf]
  cases writeCase s.head s.tail s.pageSize s.flip with
  | linear => exact hpage.mono (by omega)
  | wrapRoom => exact hwrap
  | wrapFull =>
    exact (State.ReachesWithin.after (State.events_wrapHead _ false) (State.reachesWithin_respond _ _ _)).mono (by omega)
  | lappedRoom => exact hpage.mono (by omega)
  | lappedFull => exact (State.reachesWithin_respond _ _ _).mono (by omega)

/-- The rest of a READ, from the choice of its leaf on (43_read R171). -/
theorem State.chooseRead_reachesWithin (s : State) :
    (s.fetched .read).chooseRead.ReachesWithin (3 + (2 * s.pageSize.toNat + 3)) (execRead s) := by
  have hpage : (s.fetched .read).startGet.ReachesWithin _ _ := State.events_loadPage _
  have hwrap := State.wrapData_reachesWithin (s.fetched .read)
  simp only [State.fetched_T, State.fetched_P] at hpage hwrap
  simp only [execRead_eq, State.chooseRead, State.fetched_H, State.fetched_T, State.fetched_P, State.fetched_F,
    State.readLeaf]
  cases readCase s.head s.tail s.pageSize s.flip with
  | linearData => exact hpage.mono (by omega)
  | linearEmpty => exact (State.reachesWithin_respond _ _ _).mono (by omega)
  | wrapData => exact hwrap
  | wrapEmpty =>
    exact (State.ReachesWithin.after (State.events_wrapTail _ false) (State.reachesWithin_respond _ _ _)).mono (by omega)
  | lappedData => exact hpage.mono (by omega)

theorem State.write_reachesWithin (len : Half) (s : State) :
    (s.begin (encode (.write len))).ReachesWithin 131083 (execWrite len s) := by
  have hP := s.pageSize.isLt
  have h := State.chooseWrite_reachesWithin len s
  rw [← State.afterFetch_fetched_write] at h
  exact (State.ReachesWithin.fetch (s.begin_write len) h).mono (by omega)

theorem State.read_reachesWithin (s : State) : (s.begin (encode .read)).ReachesWithin 131083 (execRead s) := by
  have hP := s.pageSize.isLt
  have h := State.chooseRead_reachesWithin s
  rw [← State.afterFetch_fetched_read] at h
  exact (State.ReachesWithin.fetch (by rw [State.begin, decode_encode]) h).mono (by omega)

/-- Every command's events lead to what its whole transaction answers (40_engine R100). -/
theorem State.begin_reachesWithin_exec (i : Instr) (s : State) :
    (s.begin (encode i)).ReachesWithin 131083 (exec i s) := by
  cases i with
  | format p => exact (s.format_reachesWithin p).mono (by omega)
  | write len => exact s.write_reachesWithin len
  | read => exact s.read_reachesWithin
  | isFull => exact s.isFull_reachesWithin.mono (by omega)
  | containsData => exact s.containsData_reachesWithin.mono (by omega)
  | isInitialized => exact s.isInitialized_reachesWithin.mono (by omega)

/-- Settles O15: command by command, stretch by stretch of its pseudocode; an illegal word is answered by its first
event. -/
theorem transactionIsItsEvents : Obligations.TransactionIsItsEvents := by
  refine ⟨State.begin_reachesWithin_exec, fun w s hw => ?_⟩
  cases hd : decode w with
  | ok i => exact absurd ⟨i, hd⟩ hw
  | error r => exact s.events_illegal hd

/-! ### A cut between two events (70_reset R242) -/

/-- The events of a run are recorded, and its writes, in order, make the store. -/
theorem State.events_replay {n : Nat} {s t : State} (he : State.events n s = .next t) :
    ∃ newer, t.log = newer ++ s.log ∧ t.store = replay s.store newer := by
  induction n generalizing s with
  | zero => cases he; exact ⟨[], rfl, rfl⟩
  | succ n ih =>
    simp only [State.events] at he
    cases hev : s.event with
    | fault e => rw [hev] at he; cases he
    | refused e => rw [hev] at he; cases he
    | next u =>
      rw [hev] at he
      obtain ⟨newer, hlog, hstore⟩ := ih he
      rcases State.event_next hev with ⟨-, rfl⟩ | ⟨e, h⟩
      · exact ⟨newer, hlog, hstore⟩
      · exact ⟨newer ++ [e], by rw [hlog, h.log, List.append_assoc]; rfl, by rw [hstore, h.store, replay_append]⟩

/-- Asserting reset and one step, in any state: the reset (70_reset R240). -/
theorem State.run_reset (s : State) :
    s.run [.move .assertReset, .step] = some ({ s with rst := true } : State).resetEngine := by
  simp only [State.run, State.act, State.move, Option.bind_some, step_reset]

/-- The presented word is accepted, n events of its transaction follow, and the reset: the state the cut leaves. -/
theorem State.run_cutAfter {w : Word} {n : Nat} {s t : State} (hs : s.awaiting) (hb : s.byEvent = true)
    (he : State.events n (s.begin w) = .next t) (hq : t.seq = .busy n) :
    s.run (cutAfter w (n + 1)) = some ({ t with rst := true } : State).resetEngine ∧ t.log.length = n := by
  obtain ⟨hidle, hcmd, hrst, hfault⟩ := hs
  obtain ⟨hseq0, hlog0, -, -, -, -, -, -, -, hrst0, -, hfault0, -⟩ := s.begin_fields w
  have hpresent : s.act (.move (.present w)) = some { s with cmd := some w } := if_pos hcmd
  have hbegin : step { s with cmd := some w } = .next (s.begin w) := step_begin hrst hfault hidle rfl hb
  obtain ⟨hrun, hlen⟩ := State.run_events (hrst0.trans hrst) (hfault0.trans hfault) hseq0 he (by rw [hq, Nat.zero_add])
  refine ⟨?_, by rw [hlen, hlog0]; simp⟩
  rw [cutAfter, State.run, hpresent, Option.bind_some, State.run_append, State.run_steps_succ hbegin, hrun,
    Option.bind_some, State.run_reset]

/-- Settles O54: power-up awaits by its fields; the cut run ends in the reset of the state its n events leave. -/
theorem cutFallsBetweenAnyTwoEvents : Obligations.CutFallsBetweenAnyTwoEvents := by
  refine ⟨fun store hb => ⟨⟨rfl, rfl, rfl, rfl⟩, rfl⟩, fun w n s t hs hb he hq => ?_⟩
  obtain ⟨hrun, hlen⟩ := State.run_cutAfter hs hb he hq
  obtain ⟨-, hlog0, hstore0, -, hcmd0, -⟩ := s.begin_fields w
  obtain ⟨newer, hlog, hstore⟩ := State.events_replay he
  rw [hlog0, List.append_nil] at hlog
  rw [hstore0, ← hlog] at hstore
  have hcmd : t.cmd = none := (State.events_keeps he).cmd.trans hcmd0
  exact ⟨_, hrun, hlen, hstore, rfl, rfl, ⟨rfl, hcmd, rfl, rfl⟩, rfl, rfl, rfl⟩

end Sys2Proof.Machine
end

section
/-! SUPPORT. The settled statements on the state: every step keeps the invariant, SEQ moves only as 10_state R36 says, and
no command reads what an earlier one left in the engine. -/

namespace Sys2Proof.Machine

/-! ### The request that is due (10_state R35) -/

/-- Where no request is due, no event is: every step of the sequencer but `rest` asks for an access or the response. -/
theorem State.request_eq_none_iff (s : State) : s.request = none ↔ s.point = .rest := by
  unfold State.request
  cases s.point with
  | put => simp only; split <;> simp
  | format n => simp [nthWrite, formatWrites, fieldWrites, encodeU16, encodeU32]
  | wrapHead n room => simp [nthWrite, wrapHeadWrites, fieldWrites, encodeU16]
  | wrapTail n data => simp [nthWrite, wrapTailWrites, fieldWrites, encodeU16]
  | commitHead n => simpa [nthWrite, commitHeadWrites, fieldWrites, encodeU16] using n.isLt
  | commitTail n => simpa [nthWrite, commitTailWrites, fieldWrites, encodeU16] using n.isLt
  | _ => simp

/-- The response is due exactly at the step that carries it. -/
theorem State.request_eq_respond_iff (s : State) (st : Status) (r : Bool) :
    s.request = some (.respond st r) ↔ s.point = .respond st r := by
  unfold State.request nthWrite
  cases s.point with
  | put => simp only; split <;> simp
  | _ => simp

/-- HB is written at the byte index of a page transfer, which is one of HB's positions (20_memory R60). -/
theorem State.request_hbWrite_lt {s : State} {i : Nat} {v : Byte} (h : s.request = some (.hbWrite i v)) : i < hbSize := by
  unfold State.request nthWrite at h
  cases hp : s.point with
  | getHb b => simp [hp] at h; exact h.1 ▸ s.I.isLt
  | put => simp only [hp] at h; split at h <;> simp at h
  | _ => simp [hp] at h

/-! ### The response word (30_encoding R90) -/

/-- A legal due response has one of the four response words. -/
theorem responseWord_mem {st : Status} {r : Bool} (h : (Point.respond st r).wf = true) :
    responseWord st r ∈ [(0x00 : Byte), 0x01, 0x02, 0x04] := by
  revert h; cases st <;> cases r <;> decide

/-- RESULT is bit 0 of the response word. -/
theorem responseWord_result (st : Status) (r : Bool) : (responseWord st r).getLsbD 0 = r := by
  cases st <;> cases r <;> rfl

/-! ### Inside a transaction -/

/-- The invariant inside a transaction, without its clause on the sequencer's step: what an access keeps before the
sequencer moves on. -/
structure State.Running (s : State) : Prop where
  store : s.store.wf
  storeBelow : s.store.below Config.capacity
  hb : s.hb.wf
  hbBelow : s.hb.below hbSize
  rspWord : s.rspWord ∈ [(0x00 : Byte), 0x01, 0x02, 0x04]
  faultRec : s.faultRec = none
  counted : s.seq = .busy s.log.length

/-- A busy engine meets the invariant exactly when it runs with a legal step due. -/
theorem State.wf_iff_running {s : State} {k : Nat} (hq : s.seq = .busy k) :
    s.wf ↔ s.Running ∧ s.point ≠ .rest ∧ s.point.wf = true := by
  simp only [State.wf, State.seqWf, hq, Bool.and_eq_true, decide_eq_true_eq]
  constructor
  · rintro ⟨hstore, hbelow, hhb, hhbBelow, hrsp, hfault, ⟨rfl, hrest⟩, hpwf⟩
    exact ⟨⟨hstore, hbelow, hhb, hhbBelow, hrsp, hfault, hq⟩, hrest, hpwf⟩
  · rintro ⟨⟨hstore, hbelow, hhb, hhbBelow, hrsp, hfault, hcount⟩, hrest, hpwf⟩
    obtain rfl : k = s.log.length := by simpa [hq] using hcount
    exact ⟨hstore, hbelow, hhb, hhbBelow, hrsp, hfault, ⟨rfl, hrest⟩, hpwf⟩

/-- An event is due only while BUSY (10_state R35). -/
theorem State.busy_of_due {s : State} (hs : s.wf) (hp : s.point ≠ .rest) : s.seq = .busy s.log.length := by
  obtain ⟨-, -, -, -, -, -, hseq⟩ := hs
  cases hq : s.seq with
  | idle => simp [State.seqWf, hq, hp] at hseq
  | busy k => simp only [State.seqWf, hq, Bool.and_eq_true, decide_eq_true_eq] at hseq; rw [hseq.1.1]
  | resp => simp [State.seqWf, hq, hp] at hseq

/-- A recorded event is counted (10_state R36). -/
theorem State.Running.issue {s : State} (h : s.Running) (e : Event) : (s.issue e).Running :=
  { h with counted := by rw [State.issue_seq, h.counted]; rfl }

theorem State.Running.storeWrite {s : State} (h : s.Running) {a : Nat} (ha : a < Config.capacity) (v : Byte) :
    (s.storeWrite a v).Running :=
  { h.issue (.storeWrite a v) with
    store := Memory.write_wf h.store a v
    storeBelow := Memory.write_below h.storeBelow ha v }

theorem State.Running.hbWrite {s : State} (h : s.Running) {i : Nat} (hi : i < hbSize) (v : Byte) :
    (s.hbWrite i v).Running :=
  { h.issue (.hbWrite i v) with
    hb := Memory.write_wf h.hb i v
    hbBelow := Memory.write_below h.hbBelow hi v }

/-- Once the sequencer has moved, the invariant holds again. -/
theorem State.Running.wf_of_moved {s t : State} (h : s.Running) (hm : Moved s t) : t.wf := by
  have ht : t.Running := by
    rw [hm.frame]
    exact ⟨h.store, h.storeBelow, h.hb, h.hbBelow, h.rspWord, h.faultRec, h.counted⟩
  exact (State.wf_iff_running ht.counted).2 ⟨ht, hm.due⟩

/-- The response ends the transaction in a state of the invariant (40_engine R103). -/
theorem State.Running.respond_wf {s : State} (h : s.Running) {st : Status} {r : Bool}
    (hp : (Point.respond st r).wf = true) : (s.respond st r).wf :=
  ⟨h.store, h.storeBelow, h.hb, h.hbBelow, responseWord_mem hp, h.faultRec,
    by simp [State.seqWf, -BitVec.getLsbD_eq_getElem, responseWord_result]⟩

/-- An event keeps the invariant: its access does, and then the sequencer moves on. -/
theorem State.event_wf {s t : State} (hs : s.wf) (he : s.event = .next t) : t.wf := by
  by_cases hrest : s.point = .rest
  · rw [← State.events_one, State.events_rest hrest] at he
    cases he; exact hs
  obtain ⟨hrun, -, hpwf⟩ := (State.wf_iff_running (State.busy_of_due hs hrest)).1 hs
  have hadvance : ∀ {u : State} (b : Byte), u.Running → u.point = s.point →
      (∀ st r, s.request ≠ some (.respond st r)) → (u.advance b).wf := fun b hu hp hne =>
    hu.wf_of_moved (Moved.advance _ b (hp ▸ hrest) fun st r =>
      hp ▸ mt (s.request_eq_respond_iff st r).2 (hne st r))
  unfold State.event at he
  cases hreq : s.request with
  | none => exact absurd (s.request_eq_none_iff.1 hreq) hrest
  | some q =>
    rw [hreq] at he hadvance
    cases q with
    | storeRead a =>
      simp only [State.raise] at he
      split at he <;> cases he
      exact hadvance _ (hrun.issue _) rfl (by simp)
    | storeWrite a v =>
      simp only [State.raise] at he
      split at he <;> cases he
      exact hadvance _ (hrun.storeWrite ‹_› v) rfl (by simp)
    | hbRead i => cases he; exact hadvance _ (hrun.issue _) rfl (by simp)
    | hbWrite i v => cases he; exact hadvance _ (hrun.hbWrite (State.request_hbWrite_lt hreq) v) rfl (by simp)
    | respond st r =>
      cases he
      exact hrun.respond_wf ((s.request_eq_respond_iff st r).1 hreq ▸ hpwf)

/-- A run of events keeps the invariant. -/
theorem State.events_wf {n : Nat} {s t : State} (hs : s.wf) (he : State.events n s = .next t) : t.wf := by
  induction n generalizing s with
  | zero => cases he; exact hs
  | succ n ih =>
    simp only [State.events] at he
    cases hev : s.event with
    | next u => rw [hev] at he; exact ih (State.event_wf hs hev) he
    | fault e => rw [hev] at he; cases he
    | refused e => rw [hev] at he; cases he

/-! ### Every step keeps the invariant -/

/-- Decoding an accepted word moves the sequencer to the transaction's first step (40_engine R102). -/
theorem Moved.begin (s : State) (w : Word) : Moved (s.accept w) (s.begin w) := by
  unfold State.begin
  (repeat' split) <;> exact ⟨rfl, by simp [Point.wf]⟩

/-- Accepting a word starts a transaction in a state of the invariant. -/
theorem State.begin_wf {s : State} (hs : s.wf) (w : Word) : (s.begin w).wf := by
  obtain ⟨hstore, hbelow, hhb, hhbBelow, hrsp, hfault, -⟩ := hs
  have haccept : (s.accept w).Running := ⟨hstore, hbelow, hhb, hhbBelow, hrsp, hfault, rfl⟩
  exact haccept.wf_of_moved (Moved.begin s w)

/-- A whole transaction keeps the invariant: it is a run of its events. -/
theorem State.exec_wf {s t : State} {i : Instr} (hs : s.wf) (he : exec i s = .next t) : t.wf := by
  obtain ⟨n, -, hn⟩ := s.begin_reachesWithin_exec i
  exact State.events_wf (State.begin_wf hs _) (hn.trans he)

theorem State.resetEngine_wf {s : State} (hs : s.wf) : s.resetEngine.wf := by
  obtain ⟨hstore, hbelow, hhb, hhbBelow, -⟩ := hs
  exact ⟨hstore, hbelow, hhb, hhbBelow, by simp, rfl, rfl⟩

/-- Taking the response leaves an idle engine with nothing due (10_state R36). -/
theorem State.takeResponse_wf {s : State} (hs : s.wf) (hq : s.seq = .resp) : s.takeResponse.wf := by
  obtain ⟨hstore, hbelow, hhb, hhbBelow, hrsp, hfault, hseq⟩ := hs
  simp only [State.seqWf, hq, decide_eq_true_eq] at hseq
  exact ⟨hstore, hbelow, hhb, hhbBelow, hrsp, hfault, decide_eq_true hseq.1⟩

theorem State.faultRec_of_wf {s : State} (hs : s.wf) : s.faultRec = none := by
  obtain ⟨-, -, -, -, -, hf, -⟩ := hs
  exact hf

/-- A presented response waits for the host (40_engine R103). -/
theorem step_hold {s : State} (hr : s.rst = false) (hf : s.faultRec = none) (hq : s.seq = .resp)
    (hy : s.rspReady = false) : step s = .next s := by
  simp [step, hr, hf, hq, hy]

/-- Accepting a presented word keeps the invariant at either granularity (log 5). -/
theorem step_accept_wf {s t : State} {w : Word} (hs : s.wf) (hr : s.rst = false) (hf : s.faultRec = none)
    (hq : s.seq = .idle) (hc : s.cmd = some w) (h : step s = .next t) : t.wf := by
  cases hb : s.byEvent with
  | true =>
    rw [step_begin hr hf hq hc hb] at h
    cases h; exact State.begin_wf hs w
  | false =>
    cases hd : decode w with
    | ok i => exact State.exec_wf hs ((step_exec hr hf hq hc hb hd).symm.trans h)
    | error r =>
      rw [step_refuse hr hf hq hc hb hd] at h
      cases h; exact State.events_wf (State.begin_wf hs w) (s.events_illegal hd)

/-- Settles O11: by the situations of a step; a whole transaction is a run of events, and an event keeps the invariant. -/
theorem stepKeepsTheInvariant : Obligations.StepKeepsTheInvariant := by
  intro s t hs h
  have hf := State.faultRec_of_wf hs
  cases hr : s.rst with
  | true => rw [step_reset hr] at h; cases h; exact State.resetEngine_wf hs
  | false =>
    cases hq : s.seq with
    | idle =>
      cases hc : s.cmd with
      | none => rw [step_wait hr hf hq hc] at h; cases h; exact hs
      | some w => exact step_accept_wf hs hr hf hq hc h
    | busy k => rw [step_busy hr hf hq] at h; exact State.event_wf hs h
    | resp =>
      cases hy : s.rspReady with
      | true => rw [step_take hr hf hq hy] at h; cases h; exact State.takeResponse_wf hs hq
      | false => rw [step_hold hr hf hq hy] at h; cases h; exact hs

/-! ### The sequencer (10_state R36) -/

/-- An event of a busy engine counts, or is the response, which makes SEQ RESP. -/
theorem State.event_seq {s t : State} {k : Nat} (hs : s.wf) (hq : s.seq = .busy k) (he : s.event = .next t) :
    (t.seq = .busy (k + 1) ∧ ∃ e : Event, e.kind ≠ .respond ∧ t.log = e :: s.log)
      ∨ (t.seq = .resp ∧ ∃ w, t.log = .respond w :: s.log) := by
  obtain ⟨-, hrest, -⟩ := (State.wf_iff_running hq).1 hs
  rcases State.event_next he with ⟨hnone, -⟩ | ⟨e, hstep⟩
  · exact absurd (s.request_eq_none_iff.1 hnone) hrest
  · rcases hstep.moves with ⟨hkind, -, hbump⟩ | ⟨-, st, r, rfl, hresp, -⟩
    · exact .inl ⟨by rw [hbump, hq]; rfl, e, hkind, hstep.log⟩
    · exact .inr ⟨hresp, _, hstep.log⟩

/-- Settles O13: by the value of SEQ, and what is presented to it. -/
theorem sequencerTransitions : Obligations.SequencerTransitions := by
  refine fun s t h => ⟨fun hr => ?_, fun hr hs hb => ?_⟩
  · rw [step_reset hr] at h; cases h; rfl
  have hf := State.faultRec_of_wf hs
  cases hq : s.seq with
  | idle =>
    cases hc : s.cmd with
    | none => rw [step_wait hr hf hq hc] at h; cases h; exact .inl ⟨rfl, rfl⟩
    | some w =>
      obtain ⟨hbusy, -⟩ := s.begin_fields w
      rw [step_begin hr hf hq hc hb] at h
      cases h; exact .inr ⟨by simp, hbusy⟩
  | busy k => exact State.event_seq hs hq (step_busy hr hf hq ▸ h)
  | resp =>
    cases hy : s.rspReady with
    | false => rw [step_hold hr hf hq hy] at h; cases h; exact .inl ⟨rfl, rfl⟩
    | true => rw [step_take hr hf hq hy] at h; cases h; exact .inr ⟨rfl, rfl⟩

/-! ### No command reads what an earlier one left (10_state R31) -/

/-- The two states look alike to every access and have issued the same events. -/
structure Alike (s s' : State) : Prop where
  store : s'.store = s.store
  hb : s'.hb = s.hb
  log : s'.log = s.log

/-- The two states look alike and present the same response. -/
structure AnsweredAlike (s s' : State) : Prop extends Alike s s' where
  rspWord : s'.rspWord = s.rspWord
  RES : s'.RES = s.RES

/-- Both outcomes are next states that `R` relates, or StoreRange faults at one address that leave states alike. -/
inductive SameOutcome (R : State → State → Prop) : Result → Result → Prop where
  | next {s s' : State} (h : R s s') : SameOutcome R (.next s) (.next s')
  | fault (a : Nat) {l l' : State} (h : Alike l l') : SameOutcome R (.fault (.storeRange a l)) (.fault (.storeRange a l'))

theorem SameOutcome.andThen {R Q : State → State → Prop} {r r' : Result} {f f' : State → Result}
    (h : SameOutcome R r r') (hf : ∀ t t', R t t' → SameOutcome Q (f t) (f' t')) :
    SameOutcome Q (Machine.andThen r f) (Machine.andThen r' f') := by
  cases h with
  | next h => exact hf _ _ h
  | fault a h => exact .fault a h

section
variable {s s' : State}

theorem Alike.issue (h : Alike s s') (e : Event) : Alike (s.issue e) (s'.issue e) :=
  ⟨h.store, h.hb, by simp [h.log]⟩

theorem Alike.storeRead (h : Alike s s') (a : Nat) : Alike (s.storeRead a) (s'.storeRead a) := by
  unfold State.storeRead
  exact h.store ▸ h.issue _

theorem Alike.storeWrite (h : Alike s s') (a : Nat) (v : Byte) : Alike (s.storeWrite a v) (s'.storeWrite a v) :=
  ⟨by simp [h.store], h.hb, by simp [h.log]⟩

theorem Alike.hbWrite (h : Alike s s') (i : Nat) (v : Byte) : Alike (s.hbWrite i v) (s'.hbWrite i v) :=
  ⟨h.store, by simp [h.hb], by simp [h.log]⟩

theorem Alike.takeRecordByte (h : Alike s s') (len : Half) (i : Nat) :
    Alike (s.takeRecordByte len i) (s'.takeRecordByte len i) := by
  unfold State.takeRecordByte
  split
  · exact ⟨h.store, h.hb, by simp [h.hb, h.log]⟩
  · exact h

theorem Alike.storeBytes (h : Alike s s') (a : Nat) (bs : List Byte) : Alike (s.storeBytes a bs) (s'.storeBytes a bs) := by
  induction bs generalizing a s s' with
  | nil => exact h
  | cons b bs ih => exact ih (h.storeWrite a b) (a + 1)

theorem Alike.wrapHead (h : Alike s s') : Alike s.wrapHead s'.wrapHead :=
  have hwrites := (h.storeBytes (fieldAddr offHead) (encodeU16 0)).storeBytes (fieldAddr offFlip) [flipSet]
  ⟨hwrites.store, hwrites.hb, hwrites.log⟩

theorem Alike.wrapTail (h : Alike s s') : Alike s.wrapTail s'.wrapTail :=
  have hwrites := (h.storeBytes (fieldAddr offTail) (encodeU16 0)).storeBytes (fieldAddr offFlip) [flipClear]
  ⟨hwrites.store, hwrites.hb, hwrites.log⟩

theorem Alike.respond (h : Alike s s') (st : Status) (r : Bool) : AnsweredAlike (s.respond st r) (s'.respond st r) :=
  ⟨⟨h.store, h.hb, by simp [h.log]⟩, rfl, rfl⟩

/-- PutPage from byte i on reads the store and HB only (20_memory R61). -/
theorem Alike.putBytes (h : Alike s s') (base len : Half) (n i : Nat) :
    SameOutcome Alike (State.putBytes base len n i s) (State.putBytes base len n i s') := by
  induction n generalizing i s s' with
  | zero => exact .next h
  | succ n ih =>
    have hI : Alike (s.setI (BitVec.ofNat 16 i)) (s'.setI (BitVec.ofNat 16 i)) := ⟨h.store, h.hb, h.log⟩
    have ht := hI.takeRecordByte len i
    simp only [State.putBytes, h.hb]
    split
    · exact ih (ht.storeWrite _ _) _
    · exact .fault _ ⟨ht.store, ht.hb, ht.log⟩

/-- GetPage from byte i on reads the store only (20_memory R61). -/
theorem Alike.getBytes (h : Alike s s') (base : Half) (n i : Nat) :
    SameOutcome Alike (State.getBytes base n i s) (State.getBytes base n i s') := by
  induction n generalizing i s s' with
  | zero => exact .next h
  | succ n ih =>
    have ht : Alike (s.setI (BitVec.ofNat 16 i)) (s'.setI (BitVec.ofNat 16 i)) := ⟨h.store, h.hb, h.log⟩
    simp only [State.getBytes, h.store]
    split
    · exact ih ((ht.storeRead _).hbWrite _ _) _
    · exact .fault _ ⟨ht.store, ht.hb, ht.log⟩

/-- The rest of a WRITE that stores a page (42_write R151). -/
theorem Alike.storePage (h : Alike s s') (hP : s'.P = s.P) (base len : Half) (v : BitVec 17) :
    SameOutcome AnsweredAlike (andThen (s.putPage base len) fun t => .next ((t.commitHead v).respond .ok true))
      (andThen (s'.putPage base len) fun t => .next ((t.commitHead v).respond .ok true)) := by
  have hI : Alike (s.setI 0) (s'.setI 0) := ⟨h.store, h.hb, h.log⟩
  simp only [State.putPage, hP]
  exact (hI.putBytes base len _ 0).andThen fun t t' ht => .next ((ht.storeBytes _ _).respond _ _)

/-- The rest of a READ that returns a page (43_read R171). -/
theorem Alike.loadPage (h : Alike s s') (hP : s'.P = s.P) (base : Half) (v : BitVec 17) :
    SameOutcome AnsweredAlike (andThen (s.getPage base) fun t => .next ((t.commitTail v).respond .ok true))
      (andThen (s'.getPage base) fun t => .next ((t.commitTail v).respond .ok true)) := by
  have hI : Alike (s.setI 0) (s'.setI 0) := ⟨h.store, h.hb, h.log⟩
  simp only [State.getPage, hP]
  exact (hI.getBytes base _ 0).andThen fun t t' ht => .next ((ht.storeBytes _ _).respond _ _)

/-! #### Command by command, from equal store and HB -/

variable (hstore : s'.store = s.store) (hhb : s'.hb = s.hb)
include hstore

/-- The persisted fields are functions of the store. -/
theorem State.fields_congr :
    s'.head = s.head ∧ s'.tail = s.tail ∧ s'.pageSize = s.pageSize ∧ s'.flip = s.flip ∧ s'.magic = s.magic := by
  simp only [State.head, State.tail, State.pageSize, State.flip, State.magic, hstore, and_self]

include hhb

theorem Alike.accept (w : Word) : Alike (s.accept w) (s'.accept w) := ⟨hstore, hhb, rfl⟩

theorem Alike.fetched (i : Instr) : Alike (s.fetched i) (s'.fetched i) :=
  ⟨by simpa using hstore, by simpa using hhb, by simp [hstore]⟩

theorem execFormat_sameOutcome (p : Half) : SameOutcome AnsweredAlike (execFormat p s) (execFormat p s') := by
  have hacc := Alike.accept hstore hhb (encode (.format p))
  have hP : Alike ((s.accept (encode (.format p))).setP p) ((s'.accept (encode (.format p))).setP p) :=
    ⟨hacc.store, hacc.hb, hacc.log⟩
  unfold execFormat
  split
  · exact .next (hacc.respond _ _)
  · exact .next ((((((hP.storeBytes _ _).storeBytes _ _).storeBytes _ _).storeBytes _ _).storeBytes _ _).respond _ _)

theorem execWrite_sameOutcome (len : Half) : SameOutcome AnsweredAlike (execWrite len s) (execWrite len s') := by
  have hfetch := Alike.fetched hstore hhb (.write len)
  obtain ⟨hhead, -, hpage, -⟩ := State.fields_congr hstore
  have hP : (s'.fetched (.write len)).P = (s.fetched (.write len)).P := by simpa using hpage
  simp only [execWrite_eq, State.writeLeaf_congr hstore, hhead, hpage]
  cases s.writeLeaf with
  | linear => exact hfetch.storePage hP _ _ _
  | wrapRoom => exact hfetch.wrapHead.storePage (by simpa using hpage) _ _ _
  | wrapFull => exact .next (hfetch.wrapHead.respond _ _)
  | lappedRoom => exact hfetch.storePage hP _ _ _
  | lappedFull => exact .next (hfetch.respond _ _)

theorem execRead_sameOutcome : SameOutcome AnsweredAlike (execRead s) (execRead s') := by
  have hfetch := Alike.fetched hstore hhb .read
  obtain ⟨-, htail, hpage, -⟩ := State.fields_congr hstore
  have hP : (s'.fetched .read).P = (s.fetched .read).P := by simpa using hpage
  simp only [execRead_eq, State.readLeaf_congr hstore, htail, hpage]
  cases s.readLeaf with
  | linearData => exact hfetch.loadPage hP _ _
  | linearEmpty => exact .next (hfetch.respond _ _)
  | wrapData => exact hfetch.wrapTail.loadPage (by simpa using hpage) _ _
  | wrapEmpty => exact .next (hfetch.wrapTail.respond _ _)
  | lappedData => exact hfetch.loadPage hP _ _

theorem execIsInitialized_sameOutcome :
    SameOutcome AnsweredAlike (execIsInitialized s) (execIsInitialized s') := by
  obtain ⟨-, -, -, -, hmagic⟩ := State.fields_congr hstore
  have hfetch : Alike (s.accept (encode .isInitialized)).fetchMagic (s'.accept (encode .isInitialized)).fetchMagic :=
    ⟨by simpa using hstore, by simpa using hhb, by simp [hstore]⟩
  rw [execIsInitialized_eq, execIsInitialized_eq, hmagic]
  exact .next (hfetch.respond _ _)

/-- Equal store and HB give every command the same outcome, whatever the working registers hold. -/
theorem exec_sameOutcome (i : Instr) : SameOutcome AnsweredAlike (exec i s) (exec i s') := by
  obtain ⟨hhead, htail, hpage, hflip, -⟩ := State.fields_congr hstore
  cases i with
  | format p => exact execFormat_sameOutcome hstore hhb p
  | write len => exact execWrite_sameOutcome hstore hhb len
  | read => exact execRead_sameOutcome hstore hhb
  | isFull =>
    simp only [exec, execIsFull_eq, hhead, htail, hpage, hflip]
    exact .next ((Alike.fetched hstore hhb _).respond _ _)
  | containsData =>
    simp only [exec, execContainsData_eq, hhead, htail, hpage, hflip]
    exact .next ((Alike.fetched hstore hhb _).respond _ _)
  | isInitialized => exact execIsInitialized_sameOutcome hstore hhb

end

/-- Settles O21: the two runs have the same outcome, a next state or a fault. -/
theorem workingRegistersAreDead : Obligations.WorkingRegistersAreDead := by
  intro i s s' hstore hhb
  have hsame := exec_sameOutcome hstore.symm hhb.symm i
  constructor
  · intro t ht
    rw [ht] at hsame
    generalize exec i s' = r at hsame
    obtain ⟨⟨hst, hh, hlog⟩, hword, hres⟩ | _ := hsame
    exact ⟨_, rfl, hst, hh, hlog, hword, hres⟩
  · intro a l hl
    rw [hl] at hsame
    generalize exec i s' = r at hsame
    obtain _ | ⟨-, ⟨hst, hh, hlog⟩⟩ := hsame
    exact ⟨_, rfl, hst, hh, hlog⟩

end Sys2Proof.Machine
end

section
/-! SUPPORT. The settled statements on the memory: the codec and the persisted fields are little-endian, and every store
read of a transaction returns the byte the writes issued before it left. -/

namespace Sys2Proof.Machine

/-! ### The codec (20_memory R55) -/

/-- The eight bits of a word from bit k on, as a number. -/
theorem extractLsb'_eight (w k : Nat) (v : BitVec w) : v.extractLsb' k 8 = BitVec.ofNat 8 (v.toNat / 2 ^ k) := by
  rw [BitVec.extractLsb', Nat.shiftRight_eq_div_pow]

theorem encodeU16_eq (v : Half) : encodeU16 v = [BitVec.ofNat 8 v.toNat, BitVec.ofNat 8 (v.toNat / 256)] := by
  simp [encodeU16, extractLsb'_eight]

theorem encodeU32_eq (v : Word) :
    encodeU32 v = [BitVec.ofNat 8 v.toNat, BitVec.ofNat 8 (v.toNat / 256), BitVec.ofNat 8 (v.toNat / 65536),
      BitVec.ofNat 8 (v.toNat / 16777216)] := by
  simp [encodeU32, extractLsb'_eight]

/-- Settles O40: by the equations of the codec; each persisted field is the decoder applied to the bytes at its address. -/
theorem codecIsLittleEndian : Obligations.CodecIsLittleEndian :=
  ⟨encodeU16_eq, decodeU16_toNat, encodeU32_eq, decodeU32_toNat, fun _ =>
    ⟨decodeU16_toNat _ _, decodeU16_toNat _ _, decodeU16_toNat _ _, decodeU32_toNat _ _ _ _⟩⟩

/-! ### Reads see the writes before them (20_memory R51, R65) -/

/-- A property that every single event keeps is kept by every run of events. -/
theorem State.events_preserve {motive : State → Prop} (hstep : ∀ {s t e}, EventStep s t e → motive s → motive t)
    {n : Nat} {s t : State} (hs : motive s) (he : State.events n s = .next t) : motive t := by
  induction n generalizing s with
  | zero => cases he; exact hs
  | succ n ih =>
    rw [State.events] at he
    cases hev : s.event with
    | fault e => rw [hev] at he; cases he
    | refused e => rw [hev] at he; cases he
    | next u =>
      rw [hev] at he
      rcases State.event_next hev with ⟨-, rfl⟩ | ⟨e, h⟩
      · exact ih hs he
      · exact ih (hstep h hs) he

/-- The event log of a transaction begun over the store `m` tells the truth: its writes, in order, make the present store,
and each of its store reads returned the byte the writes before it had left. -/
structure State.LogFaithful (m : Memory) (s : State) : Prop where
  store : s.store = replay m s.log
  reads : ∀ {a v newer older}, s.log = newer ++ .storeRead a v :: older → v = (replay m older).read a

/-- Accepting a command starts a new log. -/
theorem State.begin_logFaithful (s : State) (w : Word) : (s.begin w).LogFaithful s.store := by
  obtain ⟨-, hlog, hstore, -⟩ := s.begin_fields w
  exact ⟨by rw [hstore, hlog]; rfl, fun h => by simp [hlog] at h⟩

/-- One more event keeps the log faithful: a read returns the byte of the present store, which the log's writes made. -/
theorem EventStep.logFaithful {m : Memory} {s t : State} {e : Event} (h : EventStep s t e) (hs : s.LogFaithful m) :
    t.LogFaithful m where
  store := by rw [h.store, h.log, hs.store, ← replay_append, List.singleton_append]
  reads {a v newer older} hsplit := by
    rw [h.log] at hsplit
    cases newer with
    | nil =>
      obtain ⟨he, rfl⟩ := List.cons.inj hsplit
      rw [← hs.store]
      exact h.seen a v he
    | cons _ newer => exact hs.reads (List.cons.inj hsplit).2

/-- The log of a whole transaction is faithful: it is a run of events from acceptance on. -/
theorem State.exec_logFaithful {i : Instr} {s t : State} (he : exec i s = .next t) : t.LogFaithful s.store := by
  obtain ⟨n, -, hn⟩ := s.begin_reachesWithin_exec i
  exact State.events_preserve EventStep.logFaithful (s.begin_logFaithful _) (hn.trans he)

/-- Settles O18: the log of a command that completes is faithful to the store it began over. -/
theorem readsSeeTheWritesBefore : Obligations.ReadsSeeTheWritesBefore :=
  fun _ _ _ _ _ _ _ he hlog => (State.exec_logFaithful he).reads hlog

end Sys2Proof.Machine
end

section
/-! SUPPORT. The settled statements on the command words: decode and encode are inverse, the legal words and the rows of
the opcode table are those of 30_encoding, an illegal word is refused, and each assembler line gives its command's word. -/

namespace Sys2Proof.Machine

/-! ### The decoder (30_encoding R81 to R85) -/

/-- A word is a command's word exactly when its three fields are the command's. -/
theorem encode_eq_iff {i : Instr} {w : Word} :
    encode i = w ↔ opField w = i.opcode ∧ rsvField w = 0 ∧ argField w = i.arg := by
  constructor
  · rintro rfl; simp
  · rintro ⟨hop, hrsv, harg⟩; rw [encode, ← hop, ← hrsv, ← harg, word_eq_fields]

theorem withoutArg_eq_ok {i j : Instr} {w : Word} (h : withoutArg i w = .ok j) : i = j ∧ argField w = 0 := by
  unfold withoutArg at h
  split at h
  · next harg => exact ⟨Except.ok.inj h, harg⟩
  · cases h

/-- A word that decodes to a command has the command's fields: no branch of the decoder drops a bit. -/
theorem fields_of_decode {i : Instr} {w : Word} (h : decode w = .ok i) :
    opField w = i.opcode ∧ rsvField w = 0 ∧ argField w = i.arg := by
  rw [decode, ite_not] at h
  split_ifs at h with hrsv h1 h2 h3 h4 h5 h6
  · cases h; exact ⟨h1, hrsv, rfl⟩
  · cases h; exact ⟨h2, hrsv, rfl⟩
  · obtain ⟨rfl, harg⟩ := withoutArg_eq_ok h; exact ⟨h3, hrsv, harg⟩
  · obtain ⟨rfl, harg⟩ := withoutArg_eq_ok h; exact ⟨h4, hrsv, harg⟩
  · obtain ⟨rfl, harg⟩ := withoutArg_eq_ok h; exact ⟨h5, hrsv, harg⟩
  · obtain ⟨rfl, harg⟩ := withoutArg_eq_ok h; exact ⟨h6, hrsv, harg⟩

/-- Decode and encode are inverse (30_encoding R85). -/
theorem decode_eq_ok_iff {i : Instr} {w : Word} : decode w = .ok i ↔ encode i = w :=
  ⟨fun h => encode_eq_iff.2 (fields_of_decode h), fun h => h ▸ decode_encode i⟩

/-- Settles O1: a decoded word has the fields of its command, and an encoded command decodes to itself. -/
theorem decodeAndEncodeAgree : Obligations.DecodeAndEncodeAgree := fun _ _ => decode_eq_ok_iff

/-! ### The legal words (30_encoding R84) -/

/-- A command's word is legal. -/
theorem legal_encode (i : Instr) : legal (encode i) = true := by
  cases i <;> simp [legal, Instr.opcode, Instr.arg]

/-- The decoder accepts exactly the legal words. -/
theorem exists_decode_iff_legal (w : Word) : (∃ i, decode w = .ok i) ↔ legal w = true := by
  constructor
  · rintro ⟨i, h⟩
    rw [← decode_eq_ok_iff.1 h]
    exact legal_encode i
  · intro h
    simp only [legal, Bool.and_eq_true, Bool.or_eq_true, decide_eq_true_eq] at h
    obtain ⟨⟨hop, hrsv⟩, harg⟩ := h
    simp only [List.mem_cons, List.not_mem_nil, or_false] at hop
    obtain hop | hop | hop | hop | hop | hop := hop
    · exact ⟨.format (argField w), decode_eq_ok_iff.2 (encode_eq_iff.2 ⟨hop, hrsv, rfl⟩)⟩
    · exact ⟨.write (argField w), decode_eq_ok_iff.2 (encode_eq_iff.2 ⟨hop, hrsv, rfl⟩)⟩
    all_goals replace harg : argField w = 0 := by simpa [hop] using harg
    · exact ⟨.read, decode_eq_ok_iff.2 (encode_eq_iff.2 ⟨hop, hrsv, harg⟩)⟩
    · exact ⟨.isFull, decode_eq_ok_iff.2 (encode_eq_iff.2 ⟨hop, hrsv, harg⟩)⟩
    · exact ⟨.containsData, decode_eq_ok_iff.2 (encode_eq_iff.2 ⟨hop, hrsv, harg⟩)⟩
    · exact ⟨.isInitialized, decode_eq_ok_iff.2 (encode_eq_iff.2 ⟨hop, hrsv, harg⟩)⟩

/-- The three conditions of R84, written on the word as a number. -/
theorem legal_iff_toNat (w : Word) :
    legal w = true ↔ w.toNat % 16 ∈ [1, 2, 3, 4, 5, 6] ∧ w.toNat / 16 % 4096 = 0
      ∧ (w.toNat % 16 ∈ [1, 2] ∨ w.toNat / 65536 = 0) := by
  simp [legal, ← BitVec.toNat_inj, opField_toNat, rsvField_toNat, argField_toNat, and_assoc]

/-- Settles O2: the legal words by the decoder's law; an illegal one is answered by `refuseWord`, in one step or as the
one event of its transaction. -/
theorem illegalWordsAreRefused : Obligations.IllegalWordsAreRefused := by
  refine fun w => ⟨(exists_decode_iff_legal w).trans (legal_iff_toNat w), fun hw s => ?_⟩
  cases hd : decode w with
  | ok i => exact absurd ⟨i, hd⟩ hw
  | error r =>
    refine ⟨s.refuseWord w, fun hr hf hq hc => ⟨fun hb => step_refuse hr hf hq hc hb hd,
      step_begin hr hf hq hc⟩, s.events_illegal hd, rfl, ⟨rfl, rfl, rfl, rfl⟩, rfl, rfl, opField_toNat w, rsvField_toNat w,
      argField_toNat w, rfl, rfl, rfl, rfl, rfl, rfl, rfl, rfl, rfl⟩

/-! ### The opcode table (30_encoding R83) -/

/-- The mask of a row with an operand keeps OP and RSV. -/
theorem and_lowMask_eq_iff (w : Word) (op : BitVec 4) :
    w &&& 0x0000FFFF = op.setWidth 32 ↔ opField w = op ∧ rsvField w = 0 := by
  have hmask : (w &&& 0x0000FFFF).toNat = w.toNat % 65536 := Nat.and_two_pow_sub_one_eq_mod w.toNat 16
  have hzero : (0 : BitVec 12).toNat = 0 := rfl
  have hop := op.isLt
  simp only [← BitVec.toNat_inj, hmask, opField_toNat, rsvField_toNat, BitVec.toNat_setWidth, hzero]
  omega

/-- The mask of a row without an operand keeps every bit. -/
theorem and_fullMask (w : Word) : w &&& 0xFFFFFFFF = w := BitVec.and_allOnes

/-- Settles O3: row by row. A mask keeps the fields its row fixes; the operand is the one field the low mask leaves out. -/
theorem decodeFollowsOpcodeTable : Obligations.DecodeFollowsOpcodeTable := by
  intro w i
  rw [decode_eq_ok_iff]
  cases i with
  | format n | write n =>
    rw [encode_eq_iff, ← and_assoc, ← and_lowMask_eq_iff]
    simp [Instr.tableMask, Instr.tableMatch, Instr.opcode, Instr.arg, eq_comm]
  | read | isFull | containsData | isInitialized =>
    rw [Instr.tableMask, and_fullMask]
    simp [encode, Instr.tableMatch, Instr.opcode, Instr.arg, eq_comm]

/-- Settles O4: the decoder on fifteen fixed words. -/
theorem testVectorWordsDecode : Obligations.TestVectorWordsDecode := by
  unfold Obligations.TestVectorWordsDecode
  decide

/-! ### The assembler (30_encoding R87) -/

/-- The word of an assembler line with an operand: the operand is ARG, and the opcode stands below it. -/
theorem operandWord_toNat {n op : Nat} (hn : n ≤ 65535) (hop : op < 16) :
    (BitVec.ofNat 32 (n <<< 16 ||| op)).toNat = n * 65536 + op := by
  rw [BitVec.toNat_ofNat, Nat.shiftLeft_eq, Nat.mul_comm, ← Nat.two_pow_add_eq_or_of_lt (by omega)]
  omega

/-- A word with RSV = 0 is the word of the command whose ARG and OP it holds. -/
theorem decode_of_toNat {w : Word} {i : Instr} (h : w.toNat = i.arg.toNat * 65536 + i.opcode.toNat) :
    decode w = .ok i :=
  decode_eq_ok_iff.2 (BitVec.eq_of_toNat_eq (by rw [encode, word_toNat, h]; simp))

/-- Settles O5: line by line; an operand in its range is ARG of the line's word, and the other lines' words are fixed. -/
theorem assemblerLinesDecode : Obligations.AssemblerLinesDecode := by
  have harg : ∀ n, n ≤ 65535 → (BitVec.ofNat 16 n).toNat = n := fun n hn => by
    rw [BitVec.toNat_ofNat]; omega
  refine ⟨fun n h1 hn => ?_, fun n hn => ?_, ⟨_, rfl, by decide⟩, ⟨_, rfl, by decide⟩, ⟨_, rfl, by decide⟩,
    ⟨_, rfl, by decide⟩, fun w => rfl, rfl, fun n hn => ?_⟩
  · have hw := operandWord_toNat (op := 1) hn (by omega)
    refine ⟨_, by simp [AsmLine.assemble, AsmLine.wellFormed, h1, hn], hw, decode_of_toNat ?_⟩
    rw [hw, Instr.arg, harg n hn]; rfl
  · have hw := operandWord_toNat (op := 2) hn (by omega)
    refine ⟨_, by simp [AsmLine.assemble, AsmLine.wellFormed, hn], hw, decode_of_toNat ?_⟩
    rw [hw, Instr.arg, harg n hn]; rfl
  · have hout : ¬ n ≤ 65535 := by omega
    simp [AsmLine.assemble, AsmLine.wellFormed, hout]

end Sys2Proof.Machine
end

section
/-! SUPPORT. The settled statements on the ports and the answers: how a command ends, what stands on the ports, and that a
presented command is accepted, run and answered. -/

namespace Sys2Proof.Machine

/-! ### Waiting (30_encoding R91) -/

/-- Settles O8: by the laws of the step that waits, the step that holds the response, and the step that takes it. -/
theorem engineWaits : Obligations.EngineWaits :=
  fun s hr hf => ⟨step_wait hr hf, step_hold hr hf,
    fun hq hy => ⟨s.takeResponse, step_take hr hf hq hy, rfl, hf, rfl, rfl, rfl, rfl, rfl⟩⟩

/-! ### The response that ends a command (30_encoding R90, 40_engine R103) -/

/-- Settles O20: the response word has six values. -/
theorem responseWordFields : Obligations.ResponseWordFields := by
  intro st r
  cases st <;> cases r <;> decide

theorem andThen_eq_next {r : Result} {f : State → Result} {t : State} :
    andThen r f = .next t ↔ ∃ u, r = .next u ∧ f u = .next t := by
  cases r <;> simp

/-- A run of events that makes SEQ RESP ends in its one response: no event before it is a response, and none is due
after it. -/
theorem State.events_response_last {n k : Nat} {s t : State} (hq : s.seq = .busy k)
    (hlog : ∀ e ∈ s.log, e.kind ≠ .respond) (he : State.events n s = .next t) (ht : t.seq = .resp) :
    ∃ earlier, t.log = .respond t.rspWord :: earlier ∧ ∀ e ∈ earlier, e.kind ≠ .respond := by
  induction n generalizing s k with
  | zero => cases he; rw [hq] at ht; cases ht
  | succ n ih =>
    obtain ⟨u, hev, hu⟩ := andThen_eq_next.1 he
    rcases State.event_next hev with ⟨-, rfl⟩ | ⟨e, hstep⟩
    · exact ih hq hlog hu
    rcases hstep.moves with ⟨hkind, -, hbump⟩ | ⟨hrest, st, r, rfl, -, hword, -⟩
    · refine ih (k := k + 1) (by rw [hbump, hq]; rfl) ?_ hu
      rw [hstep.log]
      exact List.forall_mem_cons.2 ⟨hkind, hlog⟩
    · rw [State.events_rest hrest] at hu
      cases hu
      exact ⟨s.log, by rw [hstep.log, hword], hlog⟩

theorem andThen_respond_ok {q : Result} {f : State → State} {r : Bool} {t : State}
    (h : andThen q (fun u => .next ((f u).respond .ok r)) = .next t) : ∃ u r, t = State.respond u .ok r := by
  obtain ⟨u, -, hu⟩ := andThen_eq_next.1 h
  cases hu
  exact ⟨f u, r, rfl⟩

/-- Every leaf of a WRITE that completes ends with OK (42_write R151). -/
theorem execWrite_respond_ok {len : Half} {s t : State} (h : execWrite len s = .next t) :
    ∃ u r, t = State.respond u .ok r := by
  rw [execWrite_eq] at h
  cases hleaf : s.writeLeaf <;> rw [hleaf] at h
  case linear | wrapRoom | lappedRoom => exact andThen_respond_ok h
  case wrapFull | lappedFull => cases h; exact ⟨_, _, rfl⟩

/-- Every leaf of a READ that completes ends with OK (43_read R171). -/
theorem execRead_respond_ok {s t : State} (h : execRead s = .next t) : ∃ u r, t = State.respond u .ok r := by
  rw [execRead_eq] at h
  cases hleaf : s.readLeaf <;> rw [hleaf] at h
  case linearData | wrapData | lappedData => exact andThen_respond_ok h
  case linearEmpty | wrapEmpty => cases h; exact ⟨_, _, rfl⟩

/-- FORMAT 0 is the one command answered with ERR_ARG (41_format R142); every other one that completes ends with OK. -/
theorem exec_respond_ok {i : Instr} {s t : State} (hi : i ≠ .format 0) (h : exec i s = .next t) :
    ∃ u r, t = State.respond u .ok r := by
  cases i with
  | format p =>
    have hp : p ≠ 0 := fun hp => hi (by rw [hp])
    rw [exec, execFormat, if_neg hp] at h
    cases h; exact ⟨_, _, rfl⟩
  | write len => exact execWrite_respond_ok h
  | read => exact execRead_respond_ok h
  | isFull | containsData | isInitialized => cases h; exact ⟨_, _, rfl⟩

theorem exec_format_zero (s : State) :
    exec (.format 0) s = .next ((s.accept (encode (.format 0))).respond .errArg false) := rfl

/-- A command that completes ends with its response, whose STATUS says whether it was FORMAT 0. -/
theorem exec_eq_respond {i : Instr} {s t : State} (h : exec i s = .next t) :
    ∃ u st r, t = State.respond u st r ∧ responseWord st r ∈ [(0x00 : Byte), 0x01, 0x04]
      ∧ (responseWord st r = 0x04 ↔ i = .format 0) := by
  by_cases hi : i = .format 0
  · subst hi
    rw [exec_format_zero] at h
    cases h
    exact ⟨_, _, _, rfl, by decide, iff_of_true (by decide) rfl⟩
  · obtain ⟨u, r, rfl⟩ := exec_respond_ok hi h
    exact ⟨u, .ok, r, rfl, by cases r <;> decide, iff_of_false (by cases r <;> decide) hi⟩

/-- The response stands on the port (40_engine R103). -/
theorem State.respond_responded (s : State) (st : Status) (r : Bool) :
    (s.respond st r).responded (responseWord st r) :=
  ⟨rfl, rfl, rfl, (responseWord_result st r).symm⟩

/-- Settles O19: every arm ends in `respond`, and the transaction is a run of events, whose first response ends it. -/
theorem oneResponseEndsEachCommand : Obligations.OneResponseEndsEachCommand := by
  intro i s t he
  obtain ⟨n, -, hn⟩ := s.begin_reachesWithin_exec i
  obtain ⟨hbusy, hlog0, -⟩ := s.begin_fields (encode i)
  obtain ⟨u, st, r, rfl, hmem, hformat⟩ := exec_eq_respond he
  obtain ⟨earlier, hlog, hearlier⟩ :=
    State.events_response_last hbusy (by simp [hlog0]) (hn.trans he) rfl
  exact ⟨responseWord st r, earlier, hlog, hearlier, u.respond_responded st r, hmem, hformat⟩

/-! ### The command port (30_encoding R91, 40_engine R101) -/

/-- An event that faults keeps the state, but for the fault record and the sequencer's step (60_exceptions R215). -/
theorem State.event_fault {s l : State} {a : Nat} (he : s.event = .fault (.storeRange a l)) :
    l = { s with faultRec := some a, point := .rest } := by
  unfold State.event at he
  split at he
  · cases he
  · split at he <;> cases he; rfl
  · split at he <;> cases he; rfl
  · cases he
  · cases he
  · cases he

/-- A run of events that faults: its last event faults, in a state the others have kept. -/
theorem State.events_fault {n : Nat} {s l : State} {a : Nat} (he : State.events n s = .fault (.storeRange a l)) :
    ∃ u, Keeps s u ∧ l = { u with faultRec := some a, point := .rest } := by
  induction n generalizing s with
  | zero => cases he
  | succ n ih =>
    rw [State.events] at he
    cases hev : s.event with
    | next t =>
      rw [hev] at he
      obtain ⟨u, hkeep, hl⟩ := ih he
      exact ⟨u, (State.events_keeps (n := 1) (by rw [State.events_one, hev])).trans hkeep, hl⟩
    | fault e =>
      rw [hev] at he
      cases he
      exact ⟨s, Keeps.refl s, State.event_fault hev⟩
    | refused e => rw [hev] at he; cases he

/-- A whole transaction keeps what accepting its word leaves, the fault record aside when it faults. -/
theorem exec_keeps {i : Instr} {s t : State} (h : exec i s = .next t) : Keeps (s.begin (encode i)) t := by
  obtain ⟨n, -, hn⟩ := s.begin_reachesWithin_exec i
  exact State.events_keeps (hn.trans h)

theorem exec_fault_keeps {i : Instr} {s l : State} {a : Nat} (h : exec i s = .fault (.storeRange a l)) :
    ∃ u, Keeps (s.begin (encode i)) u ∧ l = { u with faultRec := some a, point := .rest } := by
  obtain ⟨n, -, hn⟩ := s.begin_reachesWithin_exec i
  exact State.events_fault (hn.trans h)

/-- A step in reset, or with SEQ not IDLE, accepts no word. -/
theorem step_keeps_cmd {s t : State} (hs : s.rst = true ∨ s.seq ≠ .idle) (h : step s = .next t) :
    t.cmd = s.cmd ∧ t.byEvent = s.byEvent := by
  cases hr : s.rst with
  | true => rw [step_reset hr] at h; cases h; exact ⟨rfl, rfl⟩
  | false =>
    cases hf : s.faultRec with
    | some a => rw [step_faulted hr hf] at h; cases h
    | none =>
      cases hq : s.seq with
      | idle => simp [hr, hq] at hs
      | busy k =>
        rw [step_busy hr hf hq, ← State.events_one] at h
        exact ⟨(State.events_keeps h).cmd, (State.events_keeps h).byEvent⟩
      | resp =>
        cases hy : s.rspReady with
        | true => rw [step_take hr hf hq hy] at h; cases h; exact ⟨rfl, rfl⟩
        | false => rw [step_hold hr hf hq hy] at h; cases h; exact ⟨rfl, rfl⟩

/-- Settles O53: accepting takes the word off the port, and no event of the transaction, the faulting one included, puts
one there. -/
theorem acceptedWordLeavesThePort : Obligations.AcceptedWordLeavesThePort := by
  have hbegin : ∀ (w : Word) (s : State), (s.begin w).cmd = none ∧ (s.begin w).byEvent = s.byEvent
      ∧ (s.begin w).answered = s.answered := fun w s => by
    obtain ⟨-, -, -, -, hcmd, -, -, -, -, -, hgran, -, hans⟩ := s.begin_fields w
    exact ⟨hcmd, hgran, hans⟩
  refine ⟨fun i s t h => ?_, fun w s => ?_, fun s t hs h => step_keeps_cmd hs h⟩
  · obtain ⟨hcmd, hgran, hans⟩ := hbegin (encode i) s
    rcases h with h | ⟨a, h⟩
    · have hkeep := exec_keeps h
      exact ⟨hkeep.cmd.trans hcmd, hkeep.byEvent.trans hgran, hkeep.answered.trans hans⟩
    · obtain ⟨u, hkeep, rfl⟩ := exec_fault_keeps h
      exact ⟨hkeep.cmd.trans hcmd, hkeep.byEvent.trans hgran, hkeep.answered.trans hans⟩
  · obtain ⟨hcmd, hgran, hans⟩ := hbegin w s
    exact ⟨hcmd, hgran, hans, rfl, rfl, rfl⟩

/-! ### The store and HB ports (30_encoding R95, R96) -/

/-- The event that answers a request: the access with the byte it moves, or the response. -/
def Request.event (s : State) : Request → Event
  | .storeRead a => .storeRead a (s.store.read a)
  | .storeWrite a v => .storeWrite a v
  | .hbRead i => .hbRead i (s.hb.read i)
  | .hbWrite i v => .hbWrite i v
  | .respond st r => .respond (responseWord st r)

/-- The addresses a request may name: below C on the store port, HB's positions on the HB port. -/
def Request.inRange : Request → Prop
  | .storeRead a => a < Config.capacity
  | .storeWrite a _ => a < Config.capacity
  | .hbRead i => i < hbSize
  | .hbWrite i _ => i < hbSize
  | .respond _ _ => True

/-- The sequencer's move issues no event. -/
theorem State.advance_log (s : State) (b : Byte) : (s.advance b).log = s.log := by
  by_cases h : s.point = .rest ∨ ∃ st r, s.point = .respond st r
  · unfold State.advance
    obtain h | ⟨st, r, h⟩ := h <;> rw [h]
  · simp only [not_or, not_exists] at h
    rw [(Moved.advance s b h.1 h.2).frame]

/-- HB is read at the byte index of a page transfer, which is one of HB's positions (20_memory R60). -/
theorem State.request_hbRead_lt {s : State} {i : Nat} (h : s.request = some (.hbRead i)) : i < hbSize := by
  unfold State.request nthWrite at h
  cases hp : s.point with
  | put =>
    simp only [hp] at h
    split at h <;> simp at h
    exact h ▸ s.I.isLt
  | _ => simp [hp] at h

/-- An event that answers a next state is the one asked for, at an address its port has. -/
theorem State.event_of_request {s t : State} {q : Request} (hreq : s.request = some q) (he : s.event = .next t) :
    t.log = q.event s :: s.log ∧ q.inRange := by
  unfold State.event at he
  rw [hreq] at he
  cases q with
  | storeRead a =>
    simp only [State.raise] at he
    split at he <;> cases he
    exact ⟨State.advance_log _ _, ‹_›⟩
  | storeWrite a v =>
    simp only [State.raise] at he
    split at he <;> cases he
    exact ⟨State.advance_log _ _, ‹_›⟩
  | hbRead i => cases he; exact ⟨State.advance_log _ _, State.request_hbRead_lt hreq⟩
  | hbWrite i v => cases he; exact ⟨State.advance_log _ _, State.request_hbWrite_lt hreq⟩
  | respond st r => cases he; exact ⟨rfl, trivial⟩

/-- The store and HB ports never request together: each kind of request belongs to one of them. -/
theorem State.not_both_ports (s : State) : ¬ (s.storePort.req = true ∧ s.hbPort.req = true) := by
  unfold State.storePort State.hbPort
  cases s.due with
  | none => simp
  | some q => cases q <;> simp

/-- Settles O52: a busy state's due request is both what the ports show and what the next event answers. -/
theorem portsShowTheNextAccess : Obligations.PortsShowTheNextAccess := by
  refine ⟨fun s => ⟨by simp [State.cmdReady], by simp [State.rspValid], s.not_both_ports⟩, ?_⟩
  rintro s t e hs hr ⟨k, hq⟩ hstep hlog
  have hf := State.faultRec_of_wf hs
  obtain ⟨-, hrest, -⟩ := (State.wf_iff_running hq).1 hs
  obtain ⟨q, hreq⟩ := Option.ne_none_iff_exists'.1 (mt s.request_eq_none_iff.1 hrest)
  have hdue : s.due = some q := by simp [State.due, hq, hf, hreq]
  obtain ⟨hev, hrange⟩ := State.event_of_request hreq ((step_busy hr hf hq).symm.trans hstep)
  obtain rfl : q.event s = e := by rw [hev] at hlog; exact (List.cons.inj hlog).1
  unfold State.storePort State.hbPort
  rw [hdue]
  cases q with
  | storeRead a | storeWrite a v =>
    have hC : Config.capacity = 32768 := rfl
    have ha : a < Config.capacity := hrange
    simp only [Request.event, if_pos ha, BitVec.toNat_ofNat, true_and, and_true]
    omega
  | hbRead i | hbWrite i v =>
    have hi : i < 65536 := hrange
    simp only [Request.event, BitVec.toNat_ofNat, true_and, and_true]
    omega
  | respond st r => exact ⟨rfl, rfl⟩

/-! ### A presented command is answered (30_encoding R91, 70_reset R262) -/

/-- The state in which the host has presented a word and is ready for the response. -/
def State.served (s : State) (w : Word) : State := { s with cmd := some w, rspReady := true }

/-- An awaiting engine runs the presented word to its response, at either granularity: in one step, or in an accepting
step and the events of its transaction. -/
theorem State.run_to_response {w : Word} {n : Nat} {s u : State} (hs : s.awaiting)
    (he : State.events n ((s.served w).begin w) = .next u) (hu : u.seq = .resp)
    (hwhole : s.byEvent = false → step (s.served w) = .next u) :
    ∃ m, m ≤ n + 1 ∧ (s.served w).run (List.replicate m .step) = some u := by
  obtain ⟨hidle, -, hrst, hfault⟩ := hs
  cases hb : s.byEvent with
  | false => exact ⟨1, by omega, State.run_steps_succ (hwhole hb) 0⟩
  | true =>
    obtain ⟨hbusy, -, -, -, -, -, -, -, -, hrst0, -, hfault0, -⟩ := (s.served w).begin_fields w
    have hbegin : step (s.served w) = .next ((s.served w).begin w) := step_begin hrst hfault hidle rfl hb
    obtain ⟨m, hm, hrun⟩ := State.run_events_resp (hrst0.trans hrst) (hfault0.trans hfault) hbusy he hu
    exact ⟨m + 1, by omega, (State.run_steps_succ hbegin m).trans hrun⟩

/-- The whole run of `serve`: the response is reached and taken, and the engine awaits the next command. -/
theorem State.run_serve {w : Word} {n : Nat} {s u : State} (hs : s.awaiting)
    (he : State.events n ((s.served w).begin w) = .next u) (hu : u.seq = .resp)
    (hwhole : s.byEvent = false → step (s.served w) = .next u) :
    ∃ m t, m ≤ n + 2 ∧ s.run (serve w m) = some t ∧ t.awaiting ∧ t.store = u.store ∧ t.hb = u.hb
      ∧ t.answered = s.answered ++ [(w, u.rspWord)] := by
  obtain ⟨m, hm, hrun⟩ := State.run_to_response hs he hu hwhole
  obtain ⟨-, hcmd, hrst, hfault⟩ := hs
  obtain ⟨-, -, -, -, hcmd0, hop, hrsv, harg, hready0, hrst0, -, hfault0, hans0⟩ := (s.served w).begin_fields w
  have hkeep := State.events_keeps he
  have hrst1 : u.rst = false := hkeep.rst.trans (hrst0.trans hrst)
  have hfault1 : u.faultRec = none := hkeep.faultRec.trans (hfault0.trans hfault)
  have htake : step u = .next u.takeResponse := step_take hrst1 hfault1 hu (hkeep.rspReady.trans hready0)
  have hword : u.command = w :=
    State.command_of_fields (hkeep.OP.trans hop) (hkeep.RSV.trans hrsv) (hkeep.ARG.trans harg)
  have hpresent : s.act (.move (.present w)) = some { s with cmd := some w } := if_pos hcmd
  refine ⟨m + 1, u.takeResponse, by omega, ?_, ⟨rfl, hkeep.cmd.trans hcmd0, hrst1, hfault1⟩, rfl, rfl, ?_⟩
  · rw [serve, State.run, hpresent, Option.bind_some, List.replicate_succ']
    change (s.served w).run (List.replicate m .step ++ [.step]) = _
    rw [State.run_append, hrun, Option.bind_some]
    exact State.run_steps_succ htake 0
  · rw [State.takeResponse_answered, hword, hkeep.answered, hans0]; rfl

/-- Settles O58: a legal word runs as its command does, which store and HB alone decide; an illegal one as its
refusal. -/
theorem eachCommandIsAnswered : Obligations.EachCommandIsAnswered := by
  constructor
  · intro w i s u hs hd hu
    have ⟨hidle, _, hrst, hfault⟩ := hs
    have hsame := exec_sameOutcome (s := s) (s' := s.served w) rfl rfl i
    rw [hu] at hsame
    generalize hv : exec i (s.served w) = r at hsame
    obtain @⟨_, v, ⟨⟨hstore, hhb, -⟩, hword, -⟩⟩ | _ := hsame
    obtain ⟨n, hn, he⟩ := (s.served w).begin_reachesWithin_exec i
    rw [decode_eq_ok_iff.1 hd, hv] at he
    have hresp : v.seq = .resp := by obtain ⟨_, _, _, rfl, -⟩ := exec_eq_respond hv; rfl
    obtain ⟨m, t, hm, hrun, hawait, htstore, hthb, hans⟩ := State.run_serve hs he hresp
      fun hb => (step_exec (s := s.served w) hrst hfault hidle rfl hb hd).trans hv
    exact ⟨m, t, by omega, hrun, hawait, htstore.trans hstore, hthb.trans hhb, hword ▸ hans⟩
  · intro w s hs hw
    have ⟨hidle, _, hrst, hfault⟩ := hs
    cases hd : decode w with
    | ok i => exact absurd ⟨i, hd⟩ hw
    | error r =>
      obtain ⟨m, t, hm, hrun, hawait, htstore, hthb, hans⟩ := State.run_serve hs (State.events_illegal _ hd) rfl
        fun hb => step_refuse hrst hfault hidle rfl hb hd
      exact ⟨m, t, by omega, hrun, hawait, htstore, hthb, hans⟩

end Sys2Proof.Machine
end

section
/-! SUPPORT. The settled statements on acceptance and on the pointer arithmetic, and what each write of the metadata
leaves of the persisted fields. -/

namespace Sys2Proof.Machine

/-! ### Accepting a command (40_engine R100 to R102) -/

/-- Settles O6: by the laws of a step; a word that decodes to a command has the command's fields, which accepting
latches. -/
theorem stepRunsThePresentedCommand : Obligations.StepRunsThePresentedCommand := by
  refine ⟨fun s w i hr hf hq hc hd => ⟨fun hb => step_exec hr hf hq hc hb hd, fun hb => ?_⟩, fun s k => step_busy⟩
  obtain ⟨hop, hrsv, harg⟩ := fields_of_decode hd
  obtain ⟨hbusy, -, -, -, -, hop', hrsv', harg', -⟩ := s.begin_fields w
  exact ⟨step_begin hr hf hq hc hb, ⟨hop'.trans hop, hrsv'.trans hrsv, harg'.trans harg⟩, hbusy⟩

/-- Settles O7: what accepting leaves, by the fields of the started transaction; a step that accepts nothing keeps the
port. -/
theorem acceptLatchesTheWord : Obligations.AcceptLatchesTheWord := by
  refine ⟨fun s w hr hf hq hc hb => ?_, fun s t hs h => (step_keeps_cmd (.inr hs) h).1⟩
  obtain ⟨hbusy, hlog, hstore, hhb, hcmd, hop, hrsv, harg, -⟩ := s.begin_fields w
  exact ⟨_, step_begin hr hf hq hc hb, by rw [hop, opField_toNat], by rw [hrsv, rsvField_toNat],
    by rw [harg, argField_toNat], hbusy, hlog, hcmd, hstore, hhb⟩

/-! ### The exact sums and the classifiers (40_engine R110 to R114) -/

/-- Settles O39: by the laws of the two codecs of a sum. -/
theorem pointerSumsAreExact : Obligations.PointerSumsAreExact :=
  fun a b => ⟨paeSum_toNat a b, by rw [storedPointer_toNat, paeSum_toNat]⟩

/-- The flip marker is tested as a whole byte (40_engine R118). -/
theorem flip_eq_zero_iff (F : Byte) : F = 0 ↔ F.toNat = 0 := by
  rw [← BitVec.toNat_inj]; rfl

/-- Settles O37: the sums are exact, and the sum with base 0 is the page size. -/
theorem writeCaseLeaves : Obligations.WriteCaseLeaves := by
  intro H T P F
  have hbase : (0 : Half).toNat + P.toNat = P.toNat := Nat.zero_add _
  simp only [writeCase, paeSum_toNat, flip_eq_zero_iff, hbase]
  rfl

/-- Settles O38: the sums are exact. -/
theorem readCaseLeaves : Obligations.ReadCaseLeaves := by
  intro H T P F
  simp only [readCase, paeSum_toNat, flip_eq_zero_iff]
  rfl

/-! ### The persisted fields after each write of the metadata (40_engine R106, 41_format R141) -/

@[simp] theorem State.fetched_head (s : State) (i : Instr) : (s.fetched i).head = s.head := by simp [State.fetched]
@[simp] theorem State.fetched_tail (s : State) (i : Instr) : (s.fetched i).tail = s.tail := by simp [State.fetched]
@[simp] theorem State.fetched_pageSize (s : State) (i : Instr) : (s.fetched i).pageSize = s.pageSize := by
  simp [State.fetched]
@[simp] theorem State.fetched_flip (s : State) (i : Instr) : (s.fetched i).flip = s.flip := by simp [State.fetched]

@[simp] theorem State.wrapHead_head (s : State) : s.wrapHead.head = 0 := by simp [State.head, field16, decodeU16]
@[simp] theorem State.wrapHead_tail (s : State) : s.wrapHead.tail = s.tail := by simp [State.tail, field16]
@[simp] theorem State.wrapHead_pageSize (s : State) : s.wrapHead.pageSize = s.pageSize := by
  simp [State.pageSize, field16]
@[simp] theorem State.wrapHead_flip (s : State) : s.wrapHead.flip = 0x01 := by simp [State.flip, field8]

@[simp] theorem State.wrapTail_head (s : State) : s.wrapTail.head = s.head := by simp [State.head, field16]
@[simp] theorem State.wrapTail_tail (s : State) : s.wrapTail.tail = 0 := by simp [State.tail, field16, decodeU16]
@[simp] theorem State.wrapTail_pageSize (s : State) : s.wrapTail.pageSize = s.pageSize := by
  simp [State.pageSize, field16]
@[simp] theorem State.wrapTail_flip (s : State) : s.wrapTail.flip = 0x00 := by simp [State.flip, field8]

@[simp] theorem State.commitHead_head (s : State) (v : BitVec 17) : (s.commitHead v).head = storedPointer v := by
  simp [State.head, field16, -storedPointer_low, -storedPointer_high]
@[simp] theorem State.commitHead_tail (s : State) (v : BitVec 17) : (s.commitHead v).tail = s.tail := by
  simp [State.tail, field16]
@[simp] theorem State.commitHead_pageSize (s : State) (v : BitVec 17) : (s.commitHead v).pageSize = s.pageSize := by
  simp [State.pageSize, field16]
@[simp] theorem State.commitHead_flip (s : State) (v : BitVec 17) : (s.commitHead v).flip = s.flip := by
  simp [State.flip, field8]

@[simp] theorem State.commitTail_head (s : State) (v : BitVec 17) : (s.commitTail v).head = s.head := by
  simp [State.head, field16]
@[simp] theorem State.commitTail_tail (s : State) (v : BitVec 17) : (s.commitTail v).tail = storedPointer v := by
  simp [State.tail, field16, -storedPointer_low, -storedPointer_high]
@[simp] theorem State.commitTail_pageSize (s : State) (v : BitVec 17) : (s.commitTail v).pageSize = s.pageSize := by
  simp [State.pageSize, field16]
@[simp] theorem State.commitTail_flip (s : State) (v : BitVec 17) : (s.commitTail v).flip = s.flip := by
  simp [State.flip, field8]

/-! ### FORMAT (41_format R141) -/

/-- The state FORMAT leaves when it writes its five fields. -/
def State.formatted (s : State) (p : Half) : State :=
  ((((((s.accept (encode (.format p))).setP p).storeField16 offHead 0).storeField16 offTail 0).storeField8 offFlip
    flipClear).storeField16 offPageSize p).storeField32 offMagic Config.magic |>.respond .ok true

theorem exec_format_eq {p : Half} (s : State) (hp : p ≠ 0) : exec (.format p) s = .next (s.formatted p) := by
  simp only [exec, execFormat, if_neg hp]
  simp [State.formatted]

@[simp] theorem State.formatted_head (s : State) (p : Half) : (s.formatted p).head = 0 := by
  simp [State.formatted, State.head, field16, decodeU16]
@[simp] theorem State.formatted_tail (s : State) (p : Half) : (s.formatted p).tail = 0 := by
  simp [State.formatted, State.tail, field16, decodeU16]
@[simp] theorem State.formatted_pageSize (s : State) (p : Half) : (s.formatted p).pageSize = p := by
  simp [State.formatted, State.pageSize, field16]
@[simp] theorem State.formatted_flip (s : State) (p : Half) : (s.formatted p).flip = 0x00 := by
  simp [State.formatted, State.flip, field8, flipClear]

/-- FORMAT writes no byte outside its five fields (41_format R143). -/
theorem State.formatted_read (s : State) (p : Half) {a : Nat} (ha : a < 0x7FE0 ∨ 0x7FEB ≤ a) :
    (s.formatted p).store.read a = s.store.read a := by
  have hne : ∀ k, 0x7FE0 ≤ k → k < 0x7FEB → a ≠ k := by omega
  simp [State.formatted, hne]

end Sys2Proof.Machine
end

section
/-! SUPPORT. The events of each path of a transaction, and how many there are of each kind. -/

namespace Sys2Proof.Machine

/-! ### The events of a transaction (40_engine R104, R130) -/

/-- The events of WRITE between the fetch and the response, leaf by leaf (42_write R151). -/
def State.eventsOfWrite (s : State) (len : Half) : List Event :=
  match s.writeLeaf with
  | .linear | .lappedRoom =>
    putEvents s.hb len s.head.toNat s.pageSize.toNat ++ commitHeadEvents (s.head.toNat + s.pageSize.toNat)
  | .wrapRoom => wrapHeadEvents ++ putEvents s.hb len 0 s.pageSize.toNat ++ commitHeadEvents s.pageSize.toNat
  | .wrapFull => wrapHeadEvents
  | .lappedFull => []

/-- The events of READ between the fetch and the response, leaf by leaf (43_read R171). -/
def State.eventsOfRead (s : State) : List Event :=
  match s.readLeaf with
  | .linearData | .lappedData =>
    getEvents s.store s.tail.toNat s.pageSize.toNat ++ commitTailEvents (s.tail.toNat + s.pageSize.toNat)
  | .linearEmpty => []
  | .wrapData =>
    wrapTailEvents ++ getEvents (((s.store.write 0x7FE6 0x00).write 0x7FE7 0x00).write 0x7FEA 0x00) 0 s.pageSize.toNat
      ++ commitTailEvents s.pageSize.toNat
  | .wrapEmpty => wrapTailEvents

/-- The events of a WRITE from the transfer on, if its page is inside the store. -/
theorem State.storePage_log {s u : State} {base len : Half} {v : BitVec 17}
    (h : (andThen (s.putPage base len) fun t => .next ((t.commitHead v).respond .ok true)) = .next u) :
    u.log.reverse = s.log.reverse ++ (putEvents s.hb len base.toNat s.P.toNat ++ commitHeadEvents v.toNat)
      ++ [.respond u.rspWord] := by
  by_cases hfit : fits base s.P
  · obtain ⟨t, ht, -, -, hlog, -⟩ := putPage_next s base len hfit
    rw [ht, andThen_next] at h
    cases h
    simp [hlog, commitHeadEvents]
  · obtain ⟨l, hl, -⟩ := putPage_fault s base len hfit
    rw [hl] at h; cases h

/-- The events of a READ from the transfer on, if its page is inside the store. -/
theorem State.loadPage_log {s u : State} {base : Half} {v : BitVec 17}
    (h : (andThen (s.getPage base) fun t => .next ((t.commitTail v).respond .ok true)) = .next u) :
    u.log.reverse = s.log.reverse ++ (getEvents s.store base.toNat s.P.toNat ++ commitTailEvents v.toNat)
      ++ [.respond u.rspWord] := by
  by_cases hfit : fits base s.P
  · obtain ⟨t, ht, -, -, hlog, -⟩ := getPage_next s base hfit
    rw [ht, andThen_next] at h
    cases h
    simp [hlog, commitTailEvents]
  · obtain ⟨l, hl, -⟩ := getPage_fault s base hfit
    rw [hl] at h; cases h

/-- The events of a WRITE that completes: the fetch, those of its leaf, the response. -/
theorem execWrite_log {len : Half} {s t : State} (h : execWrite len s = .next t) :
    t.log.reverse = fetchEvents s.store ++ s.eventsOfWrite len ++ [.respond t.rspWord] := by
  unfold State.eventsOfWrite
  rw [execWrite_eq] at h
  cases hleaf : s.writeLeaf <;> rw [hleaf] at h
  case linear | lappedRoom => simpa using State.storePage_log h
  case wrapRoom => simpa [wrapHeadEvents] using State.storePage_log h
  case wrapFull => cases h; simp [wrapHeadEvents]
  case lappedFull => cases h; simp

/-- The events of a READ that completes: the fetch, those of its leaf, the response. -/
theorem execRead_log {s t : State} (h : execRead s = .next t) :
    t.log.reverse = fetchEvents s.store ++ s.eventsOfRead ++ [.respond t.rspWord] := by
  unfold State.eventsOfRead
  rw [execRead_eq] at h
  cases hleaf : s.readLeaf <;> rw [hleaf] at h
  case linearData | lappedData => simpa using State.loadPage_log h
  case wrapData => simpa [wrapTailEvents] using State.loadPage_log h
  case wrapEmpty => cases h; simp [wrapTailEvents]
  case linearEmpty => cases h; simp

/-! ### Event counts (40_engine R130) -/

/-- How many of the events are of a kind. -/
def countKind (k : EventKind) (es : List Event) : Nat := es.countP fun e => decide (e.kind = k)

@[simp] theorem countKind_nil (k : EventKind) : countKind k [] = 0 := rfl

@[simp] theorem countKind_cons (k : EventKind) (e : Event) (es : List Event) :
    countKind k (e :: es) = countKind k es + if e.kind = k then 1 else 0 := by
  simp [countKind, List.countP_cons]

@[simp] theorem countKind_append (k : EventKind) (es fs : List Event) :
    countKind k (es ++ fs) = countKind k es + countKind k fs := List.countP_append

theorem State.count_eq (t : State) (k : EventKind) : t.count k = countKind k t.log.reverse :=
  List.countP_reverse.symm

/-- PutPage's events: a store write per byte, an HB read per byte of the record (20_memory R61, R62). -/
theorem countKind_putEvents (hb : Memory) (len : Half) (base n : Nat) (k : EventKind) :
    countKind k (putEvents hb len base n) =
      match k with
      | .storeWrite => n
      | .hbRead => min len.toNat n
      | .storeRead | .hbWrite | .respond => 0 := by
  induction n with
  | zero => cases k <;> simp [putEvents]
  | succ n ih =>
    have hsucc : putEvents hb len base (n + 1) = putEvents hb len base n ++ putEvent hb len base n := by
      simp [putEvents, List.range_succ]
    rw [hsucc, countKind_append, ih, putEvent]
    by_cases hn : n < len.toNat <;> cases k <;> simp [hn, Event.kind] <;> omega

/-- GetPage's events: a store read and an HB write per byte (20_memory R61). -/
theorem countKind_getEvents (m : Memory) (base n : Nat) (k : EventKind) :
    countKind k (getEvents m base n) =
      match k with
      | .storeRead | .hbWrite => n
      | .storeWrite | .hbRead | .respond => 0 := by
  induction n with
  | zero => cases k <;> simp [getEvents]
  | succ n ih =>
    have hsucc : getEvents m base (n + 1) = getEvents m base n ++ getEvent m base n := by
      simp [getEvents, List.range_succ]
    rw [hsucc, countKind_append, ih, getEvent]
    cases k <;> simp [Event.kind]

theorem countKind_fetchEvents (m : Memory) (k : EventKind) :
    countKind k (fetchEvents m) = if k = .storeRead then 7 else 0 := by
  cases k <;> simp [fetchEvents, readEvents, Event.kind, List.range_succ]

/-- The one response of a command that completes. -/
theorem exec_count_respond {i : Instr} {s t : State} (h : exec i s = .next t) : t.count .respond = 1 := by
  obtain ⟨w, earlier, hlog, hearlier, -⟩ := oneResponseEndsEachCommand i s t h
  rw [State.count, hlog, List.countP_cons_of_pos (by simp [Event.kind]),
    List.countP_eq_zero.2 (by simpa using hearlier)]

/-- Settles O41: the log of each path is the list of its stretches, and each stretch has its counts. -/
theorem eventCountsOfEachPath : Obligations.EventCountsOfEachPath := by
  refine ⟨fun i s t => exec_count_respond, fun s t h => ?_, fun s t q hq h => ?_, fun p s t hp h => ?_,
    fun len s t h => ?_, fun s t h => ?_⟩
  · rw [exec_format_zero] at h
    cases h
    simp [State.count, Event.kind]
  · simp only [List.mem_cons, List.not_mem_nil, or_false] at hq
    obtain rfl | rfl | rfl := hq <;> cases h <;> simp [State.count, Event.kind]
  · rw [exec_format_eq s hp] at h
    cases h
    simp [State.count, State.formatted, Event.kind]
  · simp only [State.count_eq, execWrite_log h, State.eventsOfWrite, countKind_append, countKind_fetchEvents]
    cases s.writeLeaf <;>
      simp [countKind_putEvents, Event.kind, wrapHeadEvents, commitHeadEvents, WriteLeaf.result]
    omega
  · simp only [State.count_eq, execRead_log h, State.eventsOfRead, countKind_append, countKind_fetchEvents]
    cases s.readLeaf <;>
      simp [countKind_getEvents, Event.kind, wrapTailEvents, commitTailEvents, ReadLeaf.result]

/-! ### The metadata fetch (40_engine R104) -/

/-- Four commands start with the metadata fetch. -/
theorem State.begin_fetch {i : Instr} (s : State)
    (hi : i = .read ∨ i = .isFull ∨ i = .containsData ∨ ∃ len, i = .write len) :
    s.begin (encode i) = (s.accept (encode i)).setPoint (.fetch 0) := by
  rw [State.begin, decode_encode]
  obtain rfl | rfl | rfl | ⟨len, rfl⟩ := hi <;> rfl

/-- After the fetch the sequencer moves; the fetched values, the memories and the log stay. -/
theorem State.afterFetch_fields (s : State) :
    s.afterFetch.H = s.H ∧ s.afterFetch.T = s.T ∧ s.afterFetch.P = s.P ∧ s.afterFetch.F = s.F
      ∧ s.afterFetch.store = s.store ∧ s.afterFetch.hb = s.hb ∧ s.afterFetch.log = s.log := by
  unfold State.afterFetch State.chooseWrite State.chooseRead
  (repeat' split) <;> exact ⟨rfl, rfl, rfl, rfl, rfl, rfl, rfl⟩

end Sys2Proof.Machine
end

section
/-! SUPPORT. The ring of pages that the metadata invariant INV describes: what WRITE and READ do to it, and the settled
statements over it. -/

namespace Sys2Proof.Machine

/-! ### The ring of pages (40_engine R120 to R123)

INV says that head and tail are page boundaries of a ring of CAP pages: head = h * P and tail = t * P with h and t at
most CAP, t ≤ h in the same lap and h ≤ t in the next one. The stored pages are then page numbers, and the commands move
h and t by one page, or from the lap end CAP to 0. -/

/-- INV over page numbers: head is at page `h` and tail at page `t`. -/
structure State.Ring (s : State) (h t : Nat) : Prop where
  pos : 0 < s.pageSize.toNat
  head : s.head.toNat = h * s.pageSize.toNat
  tail : s.tail.toNat = t * s.pageSize.toNat
  head_le : h ≤ cap s.pageSize.toNat
  tail_le : t ≤ cap s.pageSize.toNat
  order : (s.flip = 0 ∧ t ≤ h) ∨ (s.flip = 1 ∧ h ≤ t)

theorem State.Ring.le_of_flip_zero {s : State} {h t : Nat} (hr : s.Ring h t) (hf : s.flip = 0) : t ≤ h := by
  rcases hr.order with ⟨-, hle⟩ | ⟨hf', -⟩
  · exact hle
  · rw [hf] at hf'; exact absurd hf' (by decide)

theorem State.Ring.le_of_flip_one {s : State} {h t : Nat} (hr : s.Ring h t) (hf : s.flip = 1) : h ≤ t := by
  rcases hr.order with ⟨hf', -⟩ | ⟨-, hle⟩
  · rw [hf] at hf'; exact absurd hf' (by decide)
  · exact hle

theorem State.Ring.flip_eq_one {s : State} {h t : Nat} (hr : s.Ring h t) (hf : s.flip ≠ 0) : s.flip = 1 := by
  rcases hr.order with ⟨hf', -⟩ | ⟨hf', -⟩
  · exact absurd hf' hf
  · exact hf'

/-- A ring is well-formed. -/
theorem State.Ring.inv {s : State} {h t : Nat} (hr : s.Ring h t) : s.inv where
  pageSize_pos := hr.pos
  head_aligned := by rw [hr.head, Nat.mul_mod_left]
  tail_aligned := by rw [hr.tail, Nat.mul_mod_left]
  head_le := by rw [hr.head]; exact Nat.mul_le_mul_right _ hr.head_le
  tail_le := by rw [hr.tail]; exact Nat.mul_le_mul_right _ hr.tail_le
  flip_legal := hr.order.imp And.left And.left
  linear hf := by rw [hr.head, hr.tail]; exact Nat.mul_le_mul_right _ (hr.le_of_flip_zero hf)
  lapped hf := by rw [hr.head, hr.tail]; exact Nat.mul_le_mul_right _ (hr.le_of_flip_one hf)

/-- A well-formed state is a ring. -/
theorem State.inv.ring {s : State} (hs : s.inv) : ∃ h t, s.Ring h t := by
  obtain ⟨hpos, hhead, htail, hhle, htle, hflip, hlin, hlap⟩ := hs
  obtain ⟨h, hh⟩ := Nat.dvd_of_mod_eq_zero hhead
  obtain ⟨t, ht⟩ := Nat.dvd_of_mod_eq_zero htail
  rw [Nat.mul_comm] at hh ht
  rw [hh, Nat.mul_le_mul_right_iff hpos] at hhle
  rw [ht, Nat.mul_le_mul_right_iff hpos] at htle
  rw [hh, ht, Nat.mul_le_mul_right_iff hpos] at hlin hlap
  exact ⟨h, t, hpos, hh, ht, hhle, htle, hflip.imp (fun hf => ⟨hf, hlin hf⟩) fun hf => ⟨hf, hlap hf⟩⟩

/-! ### Page addresses -/

/-- A page of the ring lies below MS (40_engine R121). -/
theorem page_below {k P : Nat} (hk : k < cap P) : k * P + P ≤ 0x7FE0 := by
  have hcap : cap P * P ≤ 0x7FE0 := Nat.div_mul_le_self _ _
  have := Nat.mul_le_mul_right P hk
  rw [Nat.succ_mul] at this
  omega

/-- Only at the lap end does the next page reach past MS (40_engine R122). -/
theorem lapEnd_iff {k P : Nat} (hP : 0 < P) (hk : k ≤ cap P) : 0x7FE0 < k * P + P ↔ k = cap P := by
  constructor
  · intro h
    by_contra hne
    have := page_below (show k < cap P by omega)
    omega
  · rintro rfl
    exact Nat.lt_div_mul_add hP

/-- Different pages share no byte. -/
theorem page_disjoint {j k P i : Nat} (hjk : j ≠ k) (hi : i < P) : ¬ (k * P ≤ j * P + i ∧ j * P + i < k * P + P) := by
  rcases Nat.lt_or_gt_of_ne hjk with h | h <;>
    · have := Nat.mul_le_mul_right P h
      rw [Nat.succ_mul] at this
      omega

/-- The page addresses from page a on, below page b. -/
theorem pagesFrom_mul {P : Nat} (hP : 0 < P) (a b : Nat) :
    pagesFrom (a * P) (b * P) P = (List.range' a (b - a)).map (· * P) := by
  rw [pagesFrom, ← Nat.sub_mul, Nat.mul_div_cancel _ hP, List.range'_eq_map_range, List.map_map]
  exact List.map_congr_left fun k _ => (Nat.add_mul a k P).symm

/-! ### The queue as page numbers (40_engine R123) -/

/-- The stored pages, oldest first, when head is at page h and tail at page t. -/
def State.pages (s : State) (h t : Nat) : List Nat :=
  if s.flip = 0 then List.range' t (h - t) else List.range' t (cap s.pageSize.toNat - t) ++ List.range' 0 h

/-- The bytes of page k. -/
def State.page (s : State) (k : Nat) : List Byte := bytesAt s.store (k * s.pageSize.toNat) s.pageSize.toNat

section
variable {s : State} {h t : Nat}

theorem State.Ring.queue_eq (hr : s.Ring h t) : s.queue = (s.pages h t).map (· * s.pageSize.toNat) := by
  have hzero := pagesFrom_mul hr.pos 0 h
  rw [Nat.zero_mul, Nat.sub_zero] at hzero
  unfold State.queue Machine.queue State.pages
  rw [hr.head, hr.tail]
  split
  · exact pagesFrom_mul hr.pos t h
  · rw [pagesFrom_mul hr.pos, hzero, List.map_append]

/-- The records are the pages of the queue. -/
theorem State.Ring.records_eq (hr : s.Ring h t) : s.records = (s.pages h t).map s.page := by
  rw [State.records, hr.queue_eq, List.map_map]
  rfl

/-- N counts the pages of the queue. -/
theorem State.Ring.pageCount_eq (hr : s.Ring h t) :
    s.pageCount = if s.flip = 0 then h - t else cap s.pageSize.toNat - (t - h) := by
  unfold State.pageCount Machine.pageCount
  rw [hr.head, hr.tail, ← Nat.sub_mul, ← Nat.sub_mul, Nat.mul_div_cancel _ hr.pos, Nat.mul_div_cancel _ hr.pos]

/-- A stored page is one of the CAP pages. -/
theorem State.Ring.lt_of_mem_pages (hr : s.Ring h t) {k : Nat} (hk : k ∈ s.pages h t) : k < cap s.pageSize.toNat := by
  have := hr.head_le
  have := hr.tail_le
  unfold State.pages at hk
  split at hk
  · rw [List.mem_range'_1] at hk; omega
  · rw [List.mem_append, List.mem_range'_1, List.mem_range'_1] at hk; omega

/-- There is a free page at page h: head is before the lap end, or before tail in the next lap. -/
def State.room (s : State) (h t : Nat) : Prop := (s.flip = 0 ∧ h < cap s.pageSize.toNat) ∨ (s.flip = 1 ∧ h < t)

theorem State.Ring.lt_of_room (hr : s.Ring h t) (hroom : s.room h t) : h < cap s.pageSize.toNat := by
  have := hr.tail_le
  rcases hroom with ⟨-, hlt⟩ | ⟨-, hlt⟩ <;> omega

/-- The free page is not a stored one. -/
theorem State.not_mem_pages_of_room (hroom : s.room h t) : h ∉ s.pages h t := by
  unfold State.pages
  rcases hroom with ⟨hf, -⟩ | ⟨hf, hlt⟩
  · rw [if_pos hf, List.mem_range'_1]; omega
  · rw [if_neg (by rw [hf]; decide), List.mem_append, List.mem_range'_1, List.mem_range'_1]; omega

/-! ### The leaves of a ring -/

/-- The leaf a WRITE takes, over page numbers (40_engine R113, R122). -/
theorem State.Ring.writeLeaf_eq (hr : s.Ring h t) :
    s.writeLeaf =
      if s.flip = 0 then
        if h = cap s.pageSize.toNat then (if 1 < t then .wrapRoom else .wrapFull) else .linear
      else if h < t then .lappedRoom else .lappedFull := by
  have hone : s.pageSize.toNat < t * s.pageSize.toNat ↔ 1 < t :=
    Nat.lt_mul_iff_one_lt_left hr.pos
  rw [State.writeLeaf, writeCaseLeaves, hr.head, hr.tail]
  simp only [gt_iff_lt, lapEnd_iff hr.pos hr.head_le, hone, Nat.mul_lt_mul_right hr.pos, ← flip_eq_zero_iff]

/-- The leaf a READ takes, over page numbers (40_engine R114, R122). -/
theorem State.Ring.readLeaf_eq (hr : s.Ring h t) :
    s.readLeaf =
      if s.flip = 0 then (if t < h then .linearData else .linearEmpty)
      else if t = cap s.pageSize.toNat then (if 0 < h then .wrapData else .wrapEmpty) else .lappedData := by
  rw [State.readLeaf, readCaseLeaves, hr.head, hr.tail]
  simp only [gt_iff_lt, lapEnd_iff hr.pos hr.tail_le, Nat.mul_pos_iff_of_pos_right hr.pos,
    Nat.mul_lt_mul_right hr.pos, ← flip_eq_zero_iff]

/-! ### What the parts of WRITE and READ do to a ring -/

/-- A state over the same store is the same ring, with the same records. -/
theorem State.Ring.congr {s' : State} (hr : s.Ring h t) (hstore : s'.store = s.store) : s'.Ring h t := by
  obtain ⟨hhead, htail, hpage, hflip, -⟩ := State.fields_congr hstore
  obtain ⟨hpos, hh, ht, hhle, htle, horder⟩ := hr
  exact ⟨hpage ▸ hpos, hhead ▸ hpage ▸ hh, htail ▸ hpage ▸ ht, hpage ▸ hhle, hpage ▸ htle, hflip ▸ horder⟩

end

section
variable {s u : State} {h t : Nat}

/-- The persisted fields are read from MS on (10_state R20). -/
theorem State.fields_eq_of_read (hread : ∀ a, 0x7FE0 ≤ a → u.store.read a = s.store.read a) :
    u.head = s.head ∧ u.tail = s.tail ∧ u.pageSize = s.pageSize ∧ u.flip = s.flip := by
  simp [State.head, State.tail, State.pageSize, State.flip, field16, field8, hread]

/-- The bytes of a page of the ring, which lie below MS. -/
theorem State.page_congr (hP : u.pageSize = s.pageSize) (hdata : ∀ a, a < 0x7FE0 → u.store.read a = s.store.read a)
    {k : Nat} (hk : k < cap s.pageSize.toNat) : u.page k = s.page k := by
  unfold State.page bytesAt
  rw [hP]
  refine List.map_congr_left fun i hi => hdata _ ?_
  have := page_below hk
  have := List.mem_range.1 hi
  omega

/-- The records are a function of the store. -/
theorem State.records_congr (hstore : u.store = s.store) : u.records = s.records := by
  obtain ⟨hhead, htail, hpage, hflip, -⟩ := State.fields_congr hstore
  simp only [State.records, State.queue, hhead, htail, hpage, hflip, hstore]

/-- A state with the same stored pages, and the same bytes below MS, has the same records. -/
theorem State.Ring.records_eq_of_pages {h' t' : Nat} (hr : s.Ring h t) (hu : u.Ring h' t')
    (hP : u.pageSize = s.pageSize) (hdata : ∀ a, a < 0x7FE0 → u.store.read a = s.store.read a)
    (hpages : u.pages h' t' = s.pages h t) : u.records = s.records := by
  rw [hr.records_eq, hu.records_eq, hpages]
  exact List.map_congr_left fun k hk => State.page_congr hP hdata (hr.lt_of_mem_pages hk)

/-! ### The wrap commits move no record (40_engine R106, R122) -/

/-- WrapHead writes head and flipMarker only. -/
theorem State.wrapHead_read (s : State) {a : Nat} (h4 : a ≠ 0x7FE4) (h5 : a ≠ 0x7FE5) (hA : a ≠ 0x7FEA) :
    s.wrapHead.store.read a = s.store.read a := by
  simp [h4, h5, hA]

/-- WrapTail writes tail and flipMarker only. -/
theorem State.wrapTail_read (s : State) {a : Nat} (h6 : a ≠ 0x7FE6) (h7 : a ≠ 0x7FE7) (hA : a ≠ 0x7FEA) :
    s.wrapTail.store.read a = s.store.read a := by
  simp [h6, h7, hA]

/-- At the lap end WrapHead takes the writer to page 0 of the next lap. -/
theorem State.Ring.wrapHead (hr : s.Ring h t) (hend : h = cap s.pageSize.toNat) (hf : s.flip = 0) :
    s.wrapHead.Ring 0 t ∧ s.wrapHead.records = s.records := by
  have hw : s.wrapHead.Ring 0 t :=
    { pos := by simpa using hr.pos
      head := by simp
      tail := by simpa using hr.tail
      head_le := Nat.zero_le _
      tail_le := by simpa using hr.tail_le
      order := .inr ⟨s.wrapHead_flip, Nat.zero_le _⟩ }
  refine ⟨hw, hr.records_eq_of_pages hw s.wrapHead_pageSize
    (fun a ha => s.wrapHead_read (by omega) (by omega) (by omega)) ?_⟩
  simp [State.pages, hf, hend]

/-- At the lap end WrapTail takes the reader to page 0 of the writer's lap. -/
theorem State.Ring.wrapTail (hr : s.Ring h t) (hend : t = cap s.pageSize.toNat) (hf : s.flip = 1) :
    s.wrapTail.Ring h 0 ∧ s.wrapTail.records = s.records := by
  have hw : s.wrapTail.Ring h 0 :=
    { pos := by simpa using hr.pos
      head := by simpa using hr.head
      tail := by simp
      head_le := by simpa using hr.head_le
      tail_le := Nat.zero_le _
      order := .inl ⟨s.wrapTail_flip, Nat.zero_le _⟩ }
  refine ⟨hw, hr.records_eq_of_pages hw s.wrapTail_pageSize
    (fun a ha => s.wrapTail_read (by omega) (by omega) (by omega)) ?_⟩
  simp [State.pages, hf, hend]

/-! ### A stored page is appended (20_memory R61, 40_engine R107) -/

/-- The store after PutPage of a page below MS: the page holds the record, every other byte is as before. -/
theorem State.putPage_read (s : State) (base len : Half) (hfit : fits base s.P) :
    ∃ t, s.putPage base len = .next t ∧ t.hb = s.hb
      ∧ ∀ a, t.store.read a =
          if base.toNat ≤ a ∧ a < base.toNat + s.P.toNat then recordByte s.hb len (a - base.toNat)
          else s.store.read a := by
  obtain ⟨t, ht, hall, hstore, -⟩ := putPage_next s base len hfit
  refine ⟨t, ht, by rw [hall], fun a => ?_⟩
  rw [hstore, ← putEventsFrom_zero, read_replay_putEventsFrom]
  rfl

/-- The pointer after page k is at page k + 1: no sum is reduced (40_engine R111). -/
theorem storedPointer_page {k : Nat} {base P : Half} (hbase : base.toNat = k * P.toNat) (hk : k < cap P.toNat) :
    (storedPointer (paeSum base P)).toNat = (k + 1) * P.toNat := by
  have := page_below hk
  rw [storedPointer_toNat, paeSum_toNat, hbase, Nat.succ_mul]
  omega

/-- What the transfer of a WRITE into page k and the pointer advance leave: the record in page k, head after it. -/
structure PageStored (s u : State) (k : Nat) (len : Half) : Prop where
  RES : u.RES = true
  hb : u.hb = s.hb
  head : u.head.toNat = (k + 1) * s.pageSize.toNat
  tail : u.tail = s.tail
  pageSize : u.pageSize = s.pageSize
  flip : u.flip = s.flip
  read : ∀ a, a ≠ 0x7FE4 → a ≠ 0x7FE5 → u.store.read a =
    if k * s.pageSize.toNat ≤ a ∧ a < k * s.pageSize.toNat + s.pageSize.toNat
      then recordByte s.hb len (a - k * s.pageSize.toNat) else s.store.read a

/-- A WRITE's transfer to a page below MS completes. -/
theorem State.storePage_stored (hk : h < cap s.pageSize.toNat) (hhead : s.head.toNat = h * s.pageSize.toNat)
    (hP : s.P = s.pageSize) (len : Half) :
    ∃ u, (andThen (s.putPage s.head len) fun v =>
      .next ((v.commitHead (paeSum s.head s.pageSize)).respond .ok true)) = .next u ∧ PageStored s u h len := by
  have hbelow := page_below hk
  have hC : Config.capacity = 32768 := rfl
  obtain ⟨v, hv, hhb, hread⟩ := s.putPage_read s.head len (.inr (by rw [hP, hhead]; omega))
  rw [hP, hhead] at hread
  obtain ⟨-, htail, hpage, hflip⟩ := State.fields_eq_of_read (s := s) (u := v) fun a ha => by
    rw [hread, if_neg (by omega)]
  exact ⟨_, by rw [hv, andThen_next],
    { RES := rfl
      hb := by simpa using hhb
      head := by rw [State.respond_head, State.commitHead_head, storedPointer_page hhead hk]
      tail := by simpa using htail
      pageSize := by simpa using hpage
      flip := by simpa using hflip
      read := fun a h4 h5 => by simp [h4, h5, hread] }⟩

/-- The stored page is the last of the queue. -/
theorem State.Ring.pages_succ_head (hr : s.Ring h t) (hP : u.pageSize = s.pageSize)
    (hf : u.flip = s.flip) : u.pages (h + 1) t = s.pages h t ++ [h] := by
  have hconcat : ∀ a, a ≤ h → List.range' a (h + 1 - a) = List.range' a (h - a) ++ [h] := fun a ha => by
    rw [Nat.succ_sub ha, List.range'_concat, Nat.one_mul, Nat.add_sub_cancel' ha]
  unfold State.pages
  rw [hP, hf]
  split
  · next h0 =>
    exact hconcat t (hr.le_of_flip_zero h0)
  · rw [List.append_assoc]
    exact congrArg _ (hconcat 0 (Nat.zero_le _))

/-- Head moves one page on. -/
theorem PageStored.ring {len : Half} (hu : PageStored s u h len) (hr : s.Ring h t) (hroom : s.room h t) :
    u.Ring (h + 1) t where
  pos := hu.pageSize ▸ hr.pos
  head := by rw [hu.head, hu.pageSize]
  tail := by rw [hu.tail, hu.pageSize, hr.tail]
  head_le := hu.pageSize ▸ hr.lt_of_room hroom
  tail_le := hu.pageSize ▸ hr.tail_le
  order := by
    rw [hu.flip]
    rcases hroom with ⟨hf, hlt⟩ | ⟨hf, hlt⟩
    · exact .inl ⟨hf, Nat.le_succ_of_le (hr.le_of_flip_zero hf)⟩
    · exact .inr ⟨hf, hlt⟩

/-- The record is appended to the stored ones (40_engine R123). -/
theorem PageStored.records {len : Half} (hu : PageStored s u h len) (hr : s.Ring h t) (hroom : s.room h t) :
    u.records = s.records ++ [s.newRecord len] := by
  have hne : ∀ k i, k < cap s.pageSize.toNat → i < s.pageSize.toNat →
      k * s.pageSize.toNat + i ≠ 0x7FE4 ∧ k * s.pageSize.toNat + i ≠ 0x7FE5 := fun k i hk hi => by
    have := page_below hk
    omega
  have hold : ∀ k ∈ s.pages h t, u.page k = s.page k := fun k hk => by
    have hlt := hr.lt_of_mem_pages hk
    have hkh : k ≠ h := fun heq => State.not_mem_pages_of_room hroom (heq ▸ hk)
    unfold State.page bytesAt
    rw [hu.pageSize]
    refine List.map_congr_left fun i hi => ?_
    obtain ⟨h4, h5⟩ := hne k i hlt (List.mem_range.1 hi)
    rw [hu.read _ h4 h5, if_neg (page_disjoint hkh (List.mem_range.1 hi))]
  have hnew : u.page h = s.newRecord len := by
    unfold State.page bytesAt State.newRecord
    rw [hu.pageSize]
    refine List.map_congr_left fun i hi => ?_
    have hi := List.mem_range.1 hi
    obtain ⟨h4, h5⟩ := hne h i (hr.lt_of_room hroom) hi
    rw [hu.read _ h4 h5, if_pos (by omega), Nat.add_sub_cancel_left]
  rw [(hu.ring hr hroom).records_eq, hr.records_eq, hr.pages_succ_head hu.pageSize hu.flip, List.map_append,
    List.map_congr_left hold, List.map_singleton, hnew]

/-! ### The oldest page is removed (20_memory R64) -/

/-- There is a stored page at page t: tail is before head, or before the lap end behind head. -/
def State.filled (s : State) (h t : Nat) : Prop := (s.flip = 0 ∧ t < h) ∨ (s.flip = 1 ∧ t < cap s.pageSize.toNat)

theorem State.Ring.lt_of_filled (hr : s.Ring h t) (hfill : s.filled h t) : t < cap s.pageSize.toNat := by
  have := hr.head_le
  rcases hfill with ⟨-, hlt⟩ | ⟨-, hlt⟩ <;> omega

/-- What the transfer of a READ from page k and the pointer advance leave: the page in HB, tail after it. -/
structure PageLoaded (s u : State) (k : Nat) : Prop where
  RES : u.RES = true
  hb : ∀ j, u.hb.read j =
    if j < s.pageSize.toNat then s.store.read (k * s.pageSize.toNat + j) else s.hb.read j
  head : u.head = s.head
  tail : u.tail.toNat = (k + 1) * s.pageSize.toNat
  pageSize : u.pageSize = s.pageSize
  flip : u.flip = s.flip
  read : ∀ a, a ≠ 0x7FE6 → a ≠ 0x7FE7 → u.store.read a = s.store.read a

/-- A READ's transfer from a page below MS completes. -/
theorem State.loadPage_loaded (hk : t < cap s.pageSize.toNat) (htail : s.tail.toNat = t * s.pageSize.toNat)
    (hP : s.P = s.pageSize) :
    ∃ u, (andThen (s.getPage s.tail) fun v =>
      .next ((v.commitTail (paeSum s.tail s.pageSize)).respond .ok true)) = .next u ∧ PageLoaded s u t := by
  have hbelow := page_below hk
  have hC : Config.capacity = 32768 := rfl
  obtain ⟨v, hv, hall, hhb, -⟩ := getPage_next s s.tail (.inr (by rw [hP, htail]; omega))
  rw [hP, htail] at hhb
  have hstore : v.store = s.store := by rw [hall]
  obtain ⟨hhead, -, hpage, hflip, -⟩ := State.fields_congr hstore
  exact ⟨_, by rw [hv, andThen_next],
    { RES := rfl
      hb := by simpa using hhb
      head := by simpa using hhead
      tail := by rw [State.respond_tail, State.commitTail_tail, storedPointer_page htail hk]
      pageSize := by simpa using hpage
      flip := by simpa using hflip
      read := fun a h6 h7 => by simp [h6, h7, hstore] }⟩

/-- The loaded page is the first of the queue. -/
theorem State.pages_eq_cons (hfill : s.filled h t) (hP : u.pageSize = s.pageSize) (hf : u.flip = s.flip) :
    s.pages h t = t :: u.pages h (t + 1) := by
  have hcons : ∀ b, t < b → List.range' t (b - t) = t :: List.range' (t + 1) (b - (t + 1)) := fun b hb => by
    rw [← List.range'_succ, Nat.sub_add_eq, Nat.sub_add_cancel (by omega)]
  unfold State.pages
  rw [hP, hf]
  rcases hfill with ⟨h0, hlt⟩ | ⟨h1, hlt⟩
  · rw [if_pos h0, if_pos h0, hcons h hlt]
  · have h0 : s.flip ≠ 0 := by rw [h1]; decide
    rw [if_neg h0, if_neg h0, hcons _ hlt, List.cons_append]

/-- Tail moves one page on. -/
theorem PageLoaded.ring (hu : PageLoaded s u t) (hr : s.Ring h t) (hfill : s.filled h t) : u.Ring h (t + 1) where
  pos := hu.pageSize ▸ hr.pos
  head := by rw [hu.head, hu.pageSize, hr.head]
  tail := by rw [hu.tail, hu.pageSize]
  head_le := hu.pageSize ▸ hr.head_le
  tail_le := hu.pageSize ▸ hr.lt_of_filled hfill
  order := by
    rw [hu.flip]
    rcases hfill with ⟨hf, hlt⟩ | ⟨hf, hlt⟩
    · exact .inl ⟨hf, hlt⟩
    · exact .inr ⟨hf, Nat.le_succ_of_le (hr.le_of_flip_one hf)⟩

/-- The oldest record is removed, and stands in HB (40_engine R123). -/
theorem PageLoaded.records (hu : PageLoaded s u t) (hr : s.Ring h t) (hfill : s.filled h t) :
    s.records = s.page t :: u.records ∧ bytesAt u.hb 0 s.pageSize.toNat = s.page t := by
  constructor
  · have hpages := State.pages_eq_cons hfill hu.pageSize hu.flip
    rw [hr.records_eq, (hu.ring hr hfill).records_eq, hpages, List.map_cons]
    refine congrArg _ (List.map_congr_left fun k hk => (State.page_congr hu.pageSize
      (fun a ha => hu.read a (by omega) (by omega)) (hr.lt_of_mem_pages ?_)).symm)
    rw [hpages]
    exact List.mem_cons_of_mem _ hk
  · refine List.map_congr_left fun i hi => ?_
    rw [Nat.zero_add, hu.hb, if_pos (List.mem_range.1 hi)]

end

/-! ### WRITE and READ on a ring (40_engine R121, R123) -/

/-- The bytes that WRITE and READ may write at or above MS: those of head, tail and flipMarker. -/
def ringByte (a : Nat) : Prop := (0x7FE4 ≤ a ∧ a < 0x7FE8) ∨ a = 0x7FEA

/-- `w` stores the same records as `s`, and differs from it in its pointers and flag at most. -/
structure SameRecords (s w : State) : Prop where
  hb : w.hb = s.hb
  pageSize : w.pageSize = s.pageSize
  records : w.records = s.records
  read : ∀ a, ¬ ringByte a → w.store.read a = s.store.read a

/-- What a WRITE leaves of a well-formed state. -/
structure WriteOutcome (s u : State) (len : Half) : Prop where
  inv : u.inv
  hb : u.hb = s.hb
  records : u.records = if u.RES then s.records ++ [s.newRecord len] else s.records
  read : ∀ a, 0x7FE0 ≤ a → ¬ ringByte a → u.store.read a = s.store.read a

/-- What a READ leaves of a well-formed state. -/
structure ReadOutcome (s u : State) : Prop where
  inv : u.inv
  read : ∀ a, ¬ ringByte a → u.store.read a = s.store.read a
  success : u.RES = true → ∃ r rest, s.records = r :: rest ∧ u.records = rest ∧ bytesAt u.hb 0 s.pageSize.toNat = r
    ∧ ∀ j, s.pageSize.toNat ≤ j → u.hb.read j = s.hb.read j
  failure : u.RES = false → s.records = [] ∧ u.records = [] ∧ u.hb = s.hb

section
variable {s w u : State} {h t : Nat} {len : Half}

theorem SameRecords.fetched (s : State) (i : Instr) : SameRecords s (s.fetched i) where
  hb := s.fetched_hb i
  pageSize := s.fetched_pageSize i
  records := State.records_congr (s.fetched_store i)
  read a _ := by rw [State.fetched_store]

theorem SameRecords.wrapHead (hsame : SameRecords s w) (hr : w.Ring h t) (hend : h = cap w.pageSize.toNat)
    (hf : w.flip = 0) :
    SameRecords s w.wrapHead where
  hb := hsame.hb
  pageSize := w.wrapHead_pageSize.trans hsame.pageSize
  records := (hr.wrapHead hend hf).2.trans hsame.records
  read a ha := by
    unfold ringByte at ha
    rw [w.wrapHead_read (by omega) (by omega) (by omega), hsame.read a ha]

theorem SameRecords.wrapTail (hsame : SameRecords s w) (hr : w.Ring h t) (hend : t = cap w.pageSize.toNat)
    (hf : w.flip = 1) :
    SameRecords s w.wrapTail where
  hb := hsame.hb
  pageSize := w.wrapTail_pageSize.trans hsame.pageSize
  records := (hr.wrapTail hend hf).2.trans hsame.records
  read a ha := by
    unfold ringByte at ha
    rw [w.wrapTail_read (by omega) (by omega) (by omega), hsame.read a ha]

/-- A WRITE that ends after the fetch or a wrap commit stores nothing. -/
theorem SameRecords.writeOutcome (hsame : SameRecords s w) (hr : w.Ring h t) :
    WriteOutcome s (w.respond .ok false) len where
  inv := (hr.congr (s' := w.respond .ok false) rfl).inv
  hb := hsame.hb
  records := (State.records_congr (u := w.respond .ok false) rfl).trans hsame.records
  read a _ ha := hsame.read a ha

/-- A WRITE with room at head stores its record there. -/
theorem PageStored.writeOutcome (hu : PageStored w u h len) (hsame : SameRecords s w) (hr : w.Ring h t)
    (hroom : w.room h t) : WriteOutcome s u len where
  inv := (hu.ring hr hroom).inv
  hb := hu.hb.trans hsame.hb
  records := by
    have hnew : w.newRecord len = s.newRecord len := by simp only [State.newRecord, hsame.pageSize, hsame.hb]
    rw [hu.RES, if_pos rfl, hu.records hr hroom, hsame.records, hnew]
  read a hMS ha := by
    have hbelow := page_below (hr.lt_of_room hroom)
    rw [← hsame.read a ha]
    unfold ringByte at ha
    rw [hu.read a (by omega) (by omega), if_neg (by omega)]

/-- A READ that finds no record leaves none and writes no byte of HB. -/
theorem SameRecords.readOutcome (hsame : SameRecords s w) (hr : w.Ring h t) (hempty : s.records = []) :
    ReadOutcome s (w.respond .ok false) where
  inv := (hr.congr (s' := w.respond .ok false) rfl).inv
  read a ha := hsame.read a ha
  success := nofun
  failure _ := ⟨hempty, (State.records_congr (u := w.respond .ok false) rfl).trans (hsame.records.trans hempty),
    hsame.hb⟩

/-- A READ with a page at tail removes it and returns it. -/
theorem PageLoaded.readOutcome (hu : PageLoaded w u t) (hsame : SameRecords s w) (hr : w.Ring h t)
    (hfill : w.filled h t) : ReadOutcome s u where
  inv := (hu.ring hr hfill).inv
  read a ha := by
    rw [← hsame.read a ha]
    unfold ringByte at ha
    exact hu.read a (by omega) (by omega)
  success _ := by
    obtain ⟨hrecords, hbytes⟩ := hu.records hr hfill
    rw [hsame.pageSize] at hbytes
    refine ⟨_, _, hsame.records.symm.trans hrecords, rfl, hbytes, fun j hj => ?_⟩
    rw [hu.hb, if_neg (by rw [hsame.pageSize]; omega), hsame.hb]
  failure hRES := by rw [hu.RES] at hRES; cases hRES

/-- The transfer and the pointer advance of a WRITE, after the fetch or the wrap commit. -/
theorem SameRecords.storePage_outcome (hsame : SameRecords s w) (hr : w.Ring h t) (hroom : w.room h t)
    (hP : w.P = w.pageSize) (len : Half) :
    ∃ u, (andThen (w.putPage w.head len) fun v =>
      .next ((v.commitHead (paeSum w.head w.pageSize)).respond .ok true)) = .next u ∧ WriteOutcome s u len :=
  (State.storePage_stored (hr.lt_of_room hroom) hr.head hP len).imp
    fun _ hu => ⟨hu.1, hu.2.writeOutcome hsame hr hroom⟩

/-- The transfer and the pointer advance of a READ, after the fetch or the wrap commit. -/
theorem SameRecords.loadPage_outcome (hsame : SameRecords s w) (hr : w.Ring h t) (hfill : w.filled h t)
    (hP : w.P = w.pageSize) :
    ∃ u, (andThen (w.getPage w.tail) fun v =>
      .next ((v.commitTail (paeSum w.tail w.pageSize)).respond .ok true)) = .next u ∧ ReadOutcome s u :=
  (State.loadPage_loaded (hr.lt_of_filled hfill) hr.tail hP).imp
    fun _ hu => ⟨hu.1, hu.2.readOutcome hsame hr hfill⟩

/-- Every WRITE from a ring completes, leaf by leaf. -/
theorem State.Ring.execWrite_outcome (hr : s.Ring h t) (len : Half) :
    ∃ u, execWrite len s = .next u ∧ WriteOutcome s u len := by
  have hsame := SameRecords.fetched s (.write len)
  have hfetch : (s.fetched (.write len)).Ring h t := hr.congr (s.fetched_store _)
  rw [execWrite_eq, hr.writeLeaf_eq]
  by_cases h0 : s.flip = 0
  · have hf : (s.fetched (.write len)).flip = 0 := by simpa using h0
    rw [if_pos h0]
    by_cases hend : h = cap s.pageSize.toNat
    · have hend' : h = cap (s.fetched (.write len)).pageSize.toNat := by simpa using hend
      have hwrap := (hfetch.wrapHead hend' hf).1
      rw [if_pos hend]
      by_cases ht : 1 < t
      · rw [if_pos ht]
        simpa using (hsame.wrapHead hfetch hend' hf).storePage_outcome hwrap (.inr ⟨by simp, by omega⟩) (by simp) len
      · rw [if_neg ht]
        exact ⟨_, rfl, (hsame.wrapHead hfetch hend' hf).writeOutcome hwrap⟩
    · have hlt : h < cap (s.fetched (.write len)).pageSize.toNat := by simpa using lt_of_le_of_ne hr.head_le hend
      rw [if_neg hend]
      simpa using hsame.storePage_outcome hfetch (.inl ⟨hf, hlt⟩) (by simp) len
  · have h1 : (s.fetched (.write len)).flip = 1 := by simpa using hr.flip_eq_one h0
    rw [if_neg h0]
    by_cases hlt : h < t
    · rw [if_pos hlt]
      simpa using hsame.storePage_outcome hfetch (.inr ⟨h1, hlt⟩) (by simp) len
    · rw [if_neg hlt]
      exact ⟨_, rfl, hsame.writeOutcome hfetch⟩

/-- Every READ from a ring completes, leaf by leaf. -/
theorem State.Ring.execRead_outcome (hr : s.Ring h t) : ∃ u, execRead s = .next u ∧ ReadOutcome s u := by
  have hsame := SameRecords.fetched s .read
  have hfetch : (s.fetched .read).Ring h t := hr.congr (s.fetched_store _)
  rw [execRead_eq, hr.readLeaf_eq]
  by_cases h0 : s.flip = 0
  · have hf : (s.fetched .read).flip = 0 := by simpa using h0
    rw [if_pos h0]
    by_cases hlt : t < h
    · rw [if_pos hlt]
      simpa using hsame.loadPage_outcome hfetch (.inl ⟨hf, hlt⟩) (by simp)
    · have hempty : s.records = [] := by
        rw [hr.records_eq, State.pages, if_pos h0, Nat.sub_eq_zero_of_le (by omega)]; rfl
      rw [if_neg hlt]
      exact ⟨_, rfl, hsame.readOutcome hfetch hempty⟩
  · have h1 : (s.fetched .read).flip = 1 := by simpa using hr.flip_eq_one h0
    rw [if_neg h0]
    by_cases hend : t = cap s.pageSize.toNat
    · have hend' : t = cap (s.fetched .read).pageSize.toNat := by simpa using hend
      have hwrap := (hfetch.wrapTail hend' h1).1
      rw [if_pos hend]
      by_cases hpos : 0 < h
      · rw [if_pos hpos]
        simpa using (hsame.wrapTail hfetch hend' h1).loadPage_outcome hwrap (.inl ⟨by simp, hpos⟩) (by simp)
      · have hempty : s.records = [] := by
          rw [hr.records_eq, State.pages, if_neg h0, hend, Nat.sub_self, show h = 0 by omega]; rfl
        rw [if_neg hpos]
        exact ⟨_, rfl, (hsame.wrapTail hfetch hend' h1).readOutcome hwrap hempty⟩
    · have hlt : t < cap (s.fetched .read).pageSize.toNat := by simpa using lt_of_le_of_ne hr.tail_le hend
      rw [if_neg hend]
      simpa using hsame.loadPage_outcome hfetch (.inr ⟨h1, hlt⟩) (by simp)

end

/-- A state over the same store is as well-formed. -/
theorem State.inv.congr {s u : State} (hs : s.inv) (hstore : u.store = s.store) : u.inv := by
  obtain ⟨h, t, hr⟩ := hs.ring
  exact (hr.congr hstore).inv

/-- FORMAT makes an empty ring with both pointers at page 0 (40_engine R121). -/
theorem State.formatted_ring (s : State) {p : Half} (hp : p ≠ 0) : (s.formatted p).Ring 0 0 where
  pos := by rw [State.formatted_pageSize]; exact Nat.pos_of_ne_zero (mt (BitVec.eq_of_toNat_eq (y := 0)) hp)
  head := by simp
  tail := by simp
  head_le := Nat.zero_le _
  tail_le := Nat.zero_le _
  order := .inl ⟨s.formatted_flip p, le_rfl⟩

/-- A query leaves the store as it was (44_queries R190). -/
theorem exec_query_store {q : Instr} {s t : State} (hq : q = .isFull ∨ q = .containsData ∨ q = .isInitialized)
    (h : exec q s = .next t) : t.store = s.store := by
  obtain rfl | rfl | rfl := hq <;> cases h <;> simp

/-- Settles O42: each command on the ring INV describes; FORMAT makes the empty ring from any state. -/
theorem invIsKeptAndNothingFaults : Obligations.InvIsKeptAndNothingFaults := by
  constructor
  · intro i s hs
    obtain ⟨h, t, hr⟩ := hs.ring
    cases i with
    | format p =>
      by_cases hp : p = 0
      · subst hp
        exact ⟨_, exec_format_zero s, hs.congr rfl⟩
      · exact ⟨_, exec_format_eq s hp, (s.formatted_ring hp).inv⟩
    | write len => exact (hr.execWrite_outcome len).imp fun u hu => ⟨hu.1, hu.2.inv⟩
    | read => exact hr.execRead_outcome.imp fun u hu => ⟨hu.1, hu.2.inv⟩
    | isFull => exact ⟨_, rfl, hs.congr (exec_query_store (.inl rfl) rfl)⟩
    | containsData => exact ⟨_, rfl, hs.congr (exec_query_store (.inr (.inl rfl)) rfl)⟩
    | isInitialized => exact ⟨_, rfl, hs.congr (exec_query_store (.inr (.inr rfl)) rfl)⟩
  · intro p s hp
    refine ⟨_, exec_format_eq s hp, (s.formatted_ring hp).inv, ?_⟩
    rw [(s.formatted_ring hp).queue_eq, State.pages, if_pos (s.formatted_flip p)]
    rfl

/-- A WRITE from a well-formed state has its outcome. -/
theorem State.inv.writeOutcome {s u : State} {len : Half} (hs : s.inv) (h : exec (.write len) s = .next u) :
    WriteOutcome s u len := by
  obtain ⟨_, _, hr⟩ := hs.ring
  obtain ⟨v, hv, hout⟩ := hr.execWrite_outcome len
  cases hv.symm.trans h
  exact hout

/-- A READ from a well-formed state has its outcome. -/
theorem State.inv.readOutcome {s u : State} (hs : s.inv) (h : exec .read s = .next u) : ReadOutcome s u := by
  obtain ⟨_, _, hr⟩ := hs.ring
  obtain ⟨v, hv, hout⟩ := hr.execRead_outcome
  cases hv.symm.trans h
  exact hout

/-- The bytes a command may write in a well-formed state: FORMAT its five fields, WRITE the data bytes and head and
flipMarker, READ tail and flipMarker, a query none. -/
def mayWrite (i : Instr) (a : Nat) : Prop :=
  match i with
  | .format _ => 0x7FE0 ≤ a ∧ a < 0x7FEB
  | .write _ => a < 0x7FE0 ∨ ringByte a
  | .read => ringByte a
  | .isFull | .containsData | .isInitialized => False

/-- Every other byte is as before. -/
theorem State.inv.read_of_not_mayWrite {i : Instr} {s t : State} (hs : s.inv) (h : exec i s = .next t) {a : Nat}
    (ha : ¬ mayWrite i a) : t.store.read a = s.store.read a := by
  cases i with
  | format p =>
    unfold mayWrite at ha
    by_cases hp : p = 0
    · subst hp
      rw [exec_format_zero] at h
      cases h; rfl
    · rw [exec_format_eq s hp] at h
      cases h
      exact s.formatted_read p (by omega)
  | write len =>
    obtain ⟨hdata, hring⟩ := not_or.1 ha
    exact (hs.writeOutcome h).read a (by omega) hring
  | read => exact (hs.readOutcome h).read a ha
  | isFull => rw [exec_query_store (.inl rfl) h]
  | containsData => rw [exec_query_store (.inr (.inl rfl)) h]
  | isInitialized => rw [exec_query_store (.inr (.inr rfl)) h]

/-- Settles O43: the addresses of each clause are none that the command may write. -/
theorem invProtectsTheMetadata : Obligations.InvProtectsTheMetadata := by
  intro i s t hs h
  refine ⟨fun a ha => hs.read_of_not_mayWrite h ?_, fun hne a ha => hs.read_of_not_mayWrite h ?_,
    fun hne a ha => hs.read_of_not_mayWrite h ?_⟩
  · cases i <;> simp only [mayWrite, ringByte, not_false_eq_true] <;> omega
  · cases i with
    | format p => exact absurd rfl (hne p)
    | write len | read => simp only [mayWrite, ringByte]; omega
    | isFull | containsData | isInitialized => exact not_false
  · cases i with
    | write len => exact absurd rfl (hne len)
    | format p | read => simp only [mayWrite, ringByte]; omega
    | isFull | containsData | isInitialized => exact not_false

/-- Settles O44: the outcome of a WRITE. -/
theorem writeAppendsToTheQueue : Obligations.WriteAppendsToTheQueue := fun _ _ _ hs h => (hs.writeOutcome h).records

/-- Settles O45: the outcome of a READ. -/
theorem readRemovesTheOldestRecord : Obligations.ReadRemovesTheOldestRecord :=
  fun _ _ hs h => ⟨(hs.readOutcome h).success, (hs.readOutcome h).failure⟩

/-! ### Counting pages (40_engine R124 to R126) -/

/-- IS_FULL answers whether a WRITE would fail (44_queries R192). -/
theorem exec_isFull_RES {s t : State} (h : exec .isFull s = .next t) : t.RES = !s.writeLeaf.result := by
  rw [exec, execIsFull_eq] at h
  cases h
  exact isFull_eq_writeLeaf s

/-- CONTAINS_DATA answers whether a READ would succeed (44_queries R194). -/
theorem exec_containsData_RES {s t : State} (h : exec .containsData s = .next t) : t.RES = s.readLeaf.result := by
  rw [exec, execContainsData_eq] at h
  cases h
  exact containsData_eq_readLeaf s

section
variable {s : State} {h t : Nat}

/-- A READ finds a record exactly when a page is stored. -/
theorem State.Ring.readLeaf_result (hr : s.Ring h t) : s.readLeaf.result = true ↔ 0 < s.pageCount := by
  have := hr.head_le
  have := hr.tail_le
  rw [hr.readLeaf_eq, hr.pageCount_eq]
  by_cases h0 : s.flip = 0
  · simp only [if_pos h0]
    split_ifs <;> simp only [ReadLeaf.result, true_iff, Bool.false_eq_true, false_iff] <;> omega
  · have := hr.le_of_flip_one (hr.flip_eq_one h0)
    simp only [if_neg h0]
    split_ifs <;> simp only [ReadLeaf.result, true_iff, Bool.false_eq_true, false_iff] <;> omega

/-- tail = pageSize says that tail is at page 1. -/
theorem State.Ring.tail_eq_pageSize_iff (hr : s.Ring h t) : s.tail = s.pageSize ↔ t = 1 := by
  rw [← BitVec.toNat_inj, hr.tail]
  exact Nat.mul_eq_right hr.pos.ne'

/-- head = CAP * P says that head is at the lap end. -/
theorem State.Ring.head_eq_lapEnd_iff (hr : s.Ring h t) :
    s.head.toNat = cap s.pageSize.toNat * s.pageSize.toNat ↔ h = cap s.pageSize.toNat := by
  rw [hr.head]
  exact Nat.mul_left_inj hr.pos.ne'

/-- A WRITE fails exactly when CAP pages are stored, or when its room test at the lap end is too strict by one page. -/
theorem State.Ring.writeLeaf_result (hr : s.Ring h t) :
    s.writeLeaf.result = false ↔ s.pageCount = cap s.pageSize.toNat
      ∨ (s.flip = 0 ∧ t = 1 ∧ h = cap s.pageSize.toNat) := by
  have := hr.head_le
  have := hr.tail_le
  rw [hr.writeLeaf_eq, hr.pageCount_eq]
  by_cases h0 : s.flip = 0
  · have := hr.le_of_flip_zero h0
    rw [if_pos h0, if_pos h0]
    simp only [h0, true_and]
    split_ifs <;> simp only [WriteLeaf.result, true_iff, Bool.true_eq_false, false_iff] <;> omega
  · have := hr.le_of_flip_one (hr.flip_eq_one h0)
    rw [if_neg h0, if_neg h0]
    simp only [h0, false_and, or_false]
    split_ifs <;> simp only [WriteLeaf.result, true_iff, Bool.true_eq_false, false_iff] <;> omega

end

/-- Settles O46: the queries answer by the leaves, and the leaves count pages. -/
theorem queriesCountPages : Obligations.QueriesCountPages := by
  refine ⟨fun s t hs h => ?_, fun s t hs h => ?_⟩
  · obtain ⟨_, _, hr⟩ := hs.ring
    rw [exec_containsData_RES h, hr.readLeaf_result]
  · obtain ⟨_, _, hr⟩ := hs.ring
    rw [exec_isFull_RES h, Bool.not_eq_true', hr.writeLeaf_result, hr.tail_eq_pageSize_iff, hr.head_eq_lapEnd_iff]

/-- Settles O48: equal pointers are at the same page, and then N is 0 or CAP. -/
theorem equalPointersReading : Obligations.EqualPointersReading := by
  intro s hs heq
  obtain ⟨h, t, hr⟩ := hs.ring
  obtain rfl : h = t := Nat.eq_of_mul_eq_mul_right hr.pos (by rw [← hr.head, ← hr.tail, heq])
  rw [hr.pageCount_eq, Nat.sub_self]
  exact ⟨fun h0 => if_pos h0, fun h0 => if_neg h0⟩

theorem execWrite_of_wrapFull {len : Half} {s : State} (h : s.writeLeaf = .wrapFull) :
    exec (.write len) s = .next ((s.fetched (.write len)).wrapHead.respond .ok false) := by
  rw [exec, execWrite_eq, h]

theorem execWrite_of_lappedFull {len : Half} {s : State} (h : s.writeLeaf = .lappedFull) :
    exec (.write len) s = .next ((s.fetched (.write len)).respond .ok false) := by
  rw [exec, execWrite_eq, h]

theorem execRead_of_linearEmpty {s : State} (h : s.readLeaf = .linearEmpty) :
    exec .read s = .next ((s.fetched .read).respond .ok false) := by
  rw [exec, execRead_eq, h]

theorem execRead_of_wrapEmpty {s : State} (h : s.readLeaf = .wrapEmpty) :
    exec .read s = .next ((s.fetched .read).wrapTail.respond .ok false) := by
  rw [exec, execRead_eq, h]

/-- A WRITE that completes answers with the RESULT of its leaf (42_write R153). -/
theorem exec_write_RES {len : Half} {s t : State} (h : exec (.write len) s = .next t) : t.RES = s.writeLeaf.result := by
  rw [exec, execWrite_eq] at h
  cases hleaf : s.writeLeaf <;> rw [hleaf] at h
  case linear | wrapRoom | lappedRoom =>
    obtain ⟨u, -, hu⟩ := andThen_eq_next.1 h
    cases hu; rfl
  case wrapFull | lappedFull => cases h; rfl

/-- Settles O47: the spurious full state is the ring with tail at page 1 and head at the lap end; its wrap commit leaves
head at page 0 of the next lap, before tail. -/
theorem spuriousFullRetrySucceeds : Obligations.SpuriousFullRetrySucceeds := by
  intro len len' s hs h0 htail hhead hcap
  obtain ⟨h, t, hr⟩ := hs.ring
  obtain rfl := hr.tail_eq_pageSize_iff.1 htail
  have hend := hr.head_eq_lapEnd_iff.1 hhead
  have hleaf : s.writeLeaf = .wrapFull := by rw [hr.writeLeaf_eq, if_pos h0, if_pos hend, if_neg (lt_irrefl 1)]
  have hcount : s.pageCount = cap s.pageSize.toNat - 1 := by rw [hr.pageCount_eq, if_pos h0, hend]
  have hfetch : (s.fetched (.write len)).Ring h 1 := hr.congr (s.fetched_store _)
  have hwrap := (hfetch.wrapHead (by simpa using hend) (by simpa using h0)).1
  generalize ht : (s.fetched (.write len)).wrapHead.respond .ok false = t
  have hring : t.Ring 0 1 := hwrap.congr (by rw [← ht]; rfl)
  have hflip : t.flip = 1 := by rw [← ht]; simp
  have hpage : t.pageSize = s.pageSize := by rw [← ht]; simp
  refine ⟨hcount, t, (execWrite_of_wrapFull hleaf).trans (congrArg _ ht), by rw [← ht]; rfl, by rw [← ht]; simp,
    by rw [← ht]; simpa using htail, hpage, hflip, ?_, ?_⟩
  · rw [hring.pageCount_eq, if_neg (by rw [hflip]; decide), hcount, hpage]
  · have hretry : t.takeResponse.Ring 0 1 := hring.congr rfl
    obtain ⟨u, hu, -⟩ := hretry.execWrite_outcome len'
    have hroom : t.takeResponse.writeLeaf = .lappedRoom := by
      rw [hretry.writeLeaf_eq, if_neg (by rw [State.takeResponse_flip, hflip]; decide), if_pos one_pos]
    exact ⟨u, hu, (exec_write_RES hu).trans (by rw [hroom]; rfl)⟩

/-- Settles O49: with no page in the ring both pointers are at page 0, which is also the lap end. -/
theorem capacityZeroMovesNothing : Obligations.CapacityZeroMovesNothing := by
  intro len s hs hP
  have hcap : cap s.pageSize.toNat = 0 := Nat.div_eq_of_lt hP
  obtain ⟨h, t, hr⟩ := hs.ring
  obtain rfl : h = 0 := by have := hr.head_le; omega
  obtain rfl : t = 0 := by have := hr.tail_le; omega
  have hhead : s.head = 0 := BitVec.eq_of_toNat_eq (by rw [hr.head, Nat.zero_mul]; rfl)
  have htail : s.tail = 0 := BitVec.eq_of_toNat_eq (by rw [hr.tail, Nat.zero_mul]; rfl)
  have hwrapHead : ∀ a, a < 0x7FE0 → (s.fetched (.write len)).wrapHead.store.read a = s.store.read a := fun a ha => by
    rw [State.wrapHead_read _ (by omega) (by omega) (by omega), State.fetched_store]
  have hwrapTail : ∀ a, a < 0x7FE0 → (s.fetched .read).wrapTail.store.read a = s.store.read a := fun a ha => by
    rw [State.wrapTail_read _ (by omega) (by omega) (by omega), State.fetched_store]
  by_cases h0 : s.flip = 0
  · have hwrite : s.writeLeaf = .wrapFull := by rw [hr.writeLeaf_eq, if_pos h0, if_pos hcap.symm]; rfl
    have hread : s.readLeaf = .linearEmpty := by rw [hr.readLeaf_eq, if_pos h0]; rfl
    exact ⟨⟨_, execWrite_of_wrapFull hwrite, rfl, by simp, by simp, by simpa using htail, by simp, hwrapHead⟩,
      ⟨_, execRead_of_linearEmpty hread, rfl, by simpa using h0, by simpa using hhead, by simpa using htail,
        by simp, fun a _ => by simp⟩⟩
  · have h1 := hr.flip_eq_one h0
    have hwrite : s.writeLeaf = .lappedFull := by rw [hr.writeLeaf_eq, if_neg h0]; rfl
    have hread : s.readLeaf = .wrapEmpty := by rw [hr.readLeaf_eq, if_neg h0, if_pos hcap.symm]; rfl
    exact ⟨⟨_, execWrite_of_lappedFull hwrite, rfl, by simpa using h1, by simpa using hhead, by simpa using htail,
        by simp, fun a _ => by simp⟩,
      ⟨_, execRead_of_wrapEmpty hread, rfl, by simp, by simpa using hhead, by simp, by simp, hwrapTail⟩⟩

/-! ### The fetch and the other reads (40_engine R104) -/

/-- A READ from a ring reads its page below MS. -/
theorem State.Ring.readBase_below {s : State} {h t : Nat} (hr : s.Ring h t) (hleaf : s.readLeaf.result = true) :
    s.readBase.toNat + s.pageSize.toNat ≤ 0x7FE0 := by
  have := hr.head_le
  unfold State.readBase
  rw [hr.readLeaf_eq] at hleaf ⊢
  by_cases h0 : s.flip = 0
  · rw [if_pos h0] at hleaf ⊢
    by_cases hlt : t < h
    · rw [if_pos hlt, if_neg (by decide), hr.tail]
      exact page_below (by omega)
    · rw [if_neg hlt] at hleaf; cases hleaf
  · rw [if_neg h0] at hleaf ⊢
    by_cases hend : t = cap s.pageSize.toNat
    · rw [if_pos hend] at hleaf ⊢
      by_cases hpos : 0 < h
      · rw [if_pos hpos, if_pos rfl]
        have hzero := page_below (k := 0) (P := s.pageSize.toNat) (by omega)
        rwa [Nat.zero_mul] at hzero
      · rw [if_neg hpos] at hleaf; cases hleaf
    · rw [if_neg hend, if_neg (by decide), hr.tail]
      exact page_below (lt_of_le_of_ne hr.tail_le hend)

/-- PutPage reads no store byte. -/
theorem storeRead_not_mem_putEvents (hb : Memory) (len : Half) (base n a : Nat) (v : Byte) :
    .storeRead a v ∉ putEvents hb len base n := by
  simp only [putEvents, List.mem_flatMap, putEvent, not_exists, not_and]
  intro i _
  split <;> simp

/-- GetPage reads the bytes of its page. -/
theorem mem_getEvents_storeRead {m : Memory} {base n a : Nat} {v : Byte} (h : .storeRead a v ∈ getEvents m base n) :
    a < base + n := by
  simp only [getEvents, List.mem_flatMap, getEvent, List.mem_range] at h
  obtain ⟨i, hi, h⟩ := h
  simp at h
  omega

theorem mem_fetchEvents_storeRead {m : Memory} {a : Nat} {v : Byte} (h : .storeRead a v ∈ fetchEvents m) :
    0x7FE4 ≤ a := by
  simp only [fetchEvents, readEvents, List.mem_map, Event.storeRead.injEq] at h
  obtain ⟨i, -, rfl, -⟩ := h
  omega

/-- WRITE reads no store byte after its fetch. -/
theorem State.storeRead_not_mem_eventsOfWrite (s : State) (len : Half) (a : Nat) (v : Byte) :
    .storeRead a v ∉ s.eventsOfWrite len := by
  unfold State.eventsOfWrite
  cases s.writeLeaf <;> simp [storeRead_not_mem_putEvents, wrapHeadEvents, commitHeadEvents]

/-- READ reads no store byte after its fetch but those of its page. -/
theorem State.mem_eventsOfRead_storeRead {s : State} {a : Nat} {v : Byte} (h : .storeRead a v ∈ s.eventsOfRead) :
    s.readLeaf.result = true ∧ a < s.readBase.toNat + s.pageSize.toNat := by
  unfold State.eventsOfRead at h
  unfold State.readBase
  cases hleaf : s.readLeaf <;> rw [hleaf] at h
  case linearData | lappedData => exact ⟨rfl, mem_getEvents_storeRead (by simpa [commitTailEvents] using h)⟩
  case wrapData => exact ⟨rfl, mem_getEvents_storeRead (by simpa [commitTailEvents, wrapTailEvents] using h)⟩
  case wrapEmpty => simp [wrapTailEvents] at h
  case linearEmpty => cases h

/-- Settles O16: the first seven events are the fetch; the other reads of each command by its log. -/
theorem fetchReadsSevenBytes : Obligations.FetchReadsSevenBytes := by
  refine ⟨fun len s i hi => ?_, fun p s t i hi h a v hmem => ?_, fun len s t h a v hmem => ?_,
    fun s t hs h a v hmem => ?_⟩
  · have hbegin := s.begin_fetch (i := i) (by simp only [List.mem_cons, List.not_mem_nil, or_false] at hi; tauto)
    obtain ⟨hH, hT, hP, hF, hstore, hhb, hlog⟩ := (s.fetched i).afterFetch_fields
    refine ⟨(s.fetched i).afterFetch, by rw [hbegin, State.events_fetch]; rfl, ?_, ?_, ?_, ?_, ?_, ?_, ?_⟩
    · rw [hlog]; simp [fetchEvents, readEvents, List.range_succ]
    · rw [hH, State.fetched_H]; exact decodeU16_toNat _ _
    · rw [hT, State.fetched_T]; exact decodeU16_toNat _ _
    · rw [hP, State.fetched_P]; exact decodeU16_toNat _ _
    · rw [hF, State.fetched_F]; rfl
    · rw [hstore, State.fetched_store]
    · rw [hhb, State.fetched_hb]
  · simp only [List.mem_cons, List.not_mem_nil, or_false] at hi
    obtain rfl | rfl := hi
    · by_cases hp : p = 0
      · subst hp
        rw [exec_format_zero] at h
        cases h
        simp at hmem
      · rw [exec_format_eq s hp] at h
        cases h
        simp [State.formatted] at hmem
    · cases h
      simp at hmem
      omega
  · rw [← List.mem_reverse, execWrite_log h, List.mem_append, List.mem_append] at hmem
    obtain (hmem | hmem) | hmem := hmem
    · exact mem_fetchEvents_storeRead hmem
    · exact absurd hmem (s.storeRead_not_mem_eventsOfWrite len a v)
    · simp at hmem
  · obtain ⟨_, _, hr⟩ := hs.ring
    rw [← List.mem_reverse, execRead_log h, List.mem_append, List.mem_append] at hmem
    obtain (hmem | hmem) | hmem := hmem
    · exact .inr (mem_fetchEvents_storeRead hmem)
    · obtain ⟨hleaf, ha⟩ := State.mem_eventsOfRead_storeRead hmem
      exact .inl (lt_of_lt_of_le ha (hr.readBase_below hleaf))
    · simp at hmem

end Sys2Proof.Machine
end

section
/-! SUPPORT. The settled statements on FORMAT: its events, the fields and the frame it leaves, and what a cut inside its
writes leaves. -/

namespace Sys2Proof.Machine

/-! ### The events of FORMAT (41_format R141, R142) -/

/-- FORMAT's log is the sequencer's list of its writes, then the response. -/
theorem State.formatted_log (s : State) (p : Half) :
    (s.formatted p).log.reverse =
      (formatWrites p).map (fun w => .storeWrite w.1 w.2) ++ [.respond (responseWord .ok true)] := by
  simp [State.formatted, formatWrites, fieldWrites, encodeU16, encodeU32]

/-- Settles O22: FORMAT's log is its writes in order, whose bytes are the codec's, and its response. -/
theorem formatWritesElevenBytes : Obligations.FormatWritesElevenBytes := by
  intro p s hp
  refine ⟨s.formatted p, exec_format_eq s hp, ?_, by simp [State.formatted], State.respond_responded _ .ok true⟩
  rw [State.formatted_log, formatWrites, encodeU16_eq p, encodeU32_eq]
  rfl

/-- Settles O23: a refused FORMAT is an accept and a response, and neither touches a byte or a working register. -/
theorem formatZeroIsRefused : Obligations.FormatZeroIsRefused := fun s =>
  ⟨_, exec_format_zero s, rfl, State.respond_responded _ .errArg false, rfl, rfl, rfl, rfl, rfl, rfl, rfl, rfl,
    ⟨opField_encode _, rsvField_encode _, argField_encode _⟩, rfl, rfl, rfl⟩

/-! ### What FORMAT leaves (41_format R143) -/

@[simp] theorem State.formatted_magic (s : State) (p : Half) : (s.formatted p).magic = Config.magic := by
  simp [State.formatted, State.magic, field32]

/-- FORMAT loads P and no other working register, and leaves HB and the inputs. -/
theorem State.formatted_frame (s : State) (p : Half) :
    (s.formatted p).hb = s.hb ∧ (s.formatted p).H = s.H ∧ (s.formatted p).T = s.T ∧ (s.formatted p).F = s.F
      ∧ (s.formatted p).M = s.M ∧ (s.formatted p).I = s.I ∧ s.sameInputs (s.formatted p) := by
  simp [State.formatted, State.sameInputs]

theorem State.formatted_latched (s : State) (p : Half) : (s.formatted p).latched (.format p) := by
  simp [State.formatted, State.latched]

/-- Settles O24: by the persisted fields after FORMAT's writes and its frame in the store and the registers. -/
theorem formatResultAndFrame : Obligations.FormatResultAndFrame := by
  intro p s hp
  obtain ⟨hhb, hH, hT, hF, hM, hI, hin⟩ := s.formatted_frame p
  exact ⟨s.formatted p, exec_format_eq s hp, s.formatted_head p, s.formatted_tail p, s.formatted_pageSize p,
    s.formatted_flip p, s.formatted_magic p, fun a ha => s.formatted_read p ha, hhb, hH, hT, hF, hM, hI,
    s.formatted_latched p, hin⟩

/-! ### A cut inside FORMAT (41_format R145, 70_reset R243) -/

/-- FORMAT's first seven writes: every field but magic. -/
def State.formatFields (s : State) : State :=
  (((s.storeField16 offHead 0).storeField16 offTail 0).storeField8 offFlip flipClear).storeField16 offPageSize s.P

/-- The first `j` of FORMAT's last four writes: the low bytes of magic. -/
def State.formatMagic (s : State) (j : Nat) : State :=
  s.storeBytes (fieldAddr offMagic) ((encodeU32 Config.magic).take j)

/-- FORMAT up to the page size, event by event. -/
theorem State.events_formatFields (s : State) :
    State.events 7 (s.setPoint (.format 0)) = .next (s.formatFields.setPoint (.format 7)) := by
  cases s
  simp [State.events, State.event, State.request, State.advance, andThen, State.setPoint, State.storeWrite,
    State.issue, nthWrite, formatWrites, fieldWrites, encodeU16, encodeU32, Config.capacity, State.formatFields,
    State.storeField16, State.storeField8, State.storeBytes]

/-- FORMAT from the first byte of magic on, cut after any of its events. -/
theorem State.events_formatMagic (s : State) {j : Nat} (hj : j ≤ 4) :
    State.events j (s.setPoint (.format 7))
      = .next ((s.formatMagic j).setPoint (if h : 7 + j < 11 then .format ⟨7 + j, h⟩ else .respond .ok true)) := by
  cases s
  interval_cases j <;>
    simp [State.events, State.event, State.request, State.advance, andThen, State.setPoint, State.storeWrite,
      State.issue, nthWrite, formatWrites, fieldWrites, encodeU16, encodeU32, Config.capacity, State.formatMagic,
      State.storeBytes]

/-- Writes at ascending addresses leave every byte outside their stretch. -/
theorem State.storeBytes_read_outside (bs : List Byte) {a b : Nat} (s : State) (h : b < a ∨ a + bs.length ≤ b) :
    (s.storeBytes a bs).store.read b = s.store.read b := by
  induction bs generalizing a s with
  | nil => rfl
  | cons v vs ih =>
    rw [List.length_cons] at h
    have hne : b ≠ a := by omega
    rw [State.storeBytes, ih _ (by omega)]
    simp [hne]

/-- The bytes of magic lie below the other fields. -/
theorem State.formatMagic_read (s : State) (j : Nat) {b : Nat} (hb : 0x7FE4 ≤ b) :
    (s.formatMagic j).store.read b = s.store.read b := by
  have hlen : ((encodeU32 Config.magic).take j).length ≤ 4 := List.length_take_le' j _
  exact s.storeBytes_read_outside _ (.inr (by rw [fieldAddr_offMagic]; omega))

/-- Settles O25: the cut is a run of seven writes, which leave the four fields whole, and of up to four writes of
magic, which leave them so. -/
theorem interruptedFormatFields : Obligations.InterruptedFormatFields := by
  intro p s k hp hk hk'
  obtain ⟨j, rfl⟩ := Nat.exists_eq_add_of_le hk
  have hj : j ≤ 4 := by omega
  refine ⟨_, by rw [State.begin_format s hp, State.events_add, State.events_formatFields, andThen_next,
    State.events_formatMagic _ hj], ?_, ?_, ?_, ?_⟩
  · simp [State.head, field16, State.formatMagic_read, State.formatFields, decodeU16]
  · simp [State.tail, field16, State.formatMagic_read, State.formatFields, decodeU16]
  · simp [State.pageSize, field16, State.formatMagic_read, State.formatFields]
  · simp [State.flip, field8, State.formatMagic_read, State.formatFields, flipClear]

end Sys2Proof.Machine
end

section
/-! SUPPORT. The settled statements on WRITE: the events of each leaf, every store byte it leaves, and the fault of a page
that reaches past the store. -/

namespace Sys2Proof.Machine

/-! ### Counting a kind of events in a log -/

@[simp] theorem countKind_reverse (k : EventKind) (es : List Event) : countKind k es.reverse = countKind k es :=
  List.countP_reverse

theorem countKind_eq_zero_iff {k : EventKind} {es : List Event} : countKind k es = 0 ↔ ∀ e ∈ es, e.kind ≠ k := by
  simp [countKind, List.countP_eq_zero]

/-- The event before the fault of PutPage is no response (20_memory R61). -/
theorem countKind_faultEvent_respond (hb : Memory) (len : Half) (i : Nat) :
    countKind .respond (faultEvent hb len i) = 0 := by
  unfold faultEvent
  split <;> simp [Event.kind]

/-! ### Where the transfer of a WRITE starts (42_write R151) -/

/-- The leaf a WRITE takes, on the persisted fields (40_engine R113). -/
theorem State.writeLeaf_eq (s : State) :
    s.writeLeaf =
      if s.flip = 0 then
        if 0x7FE0 < s.head.toNat + s.pageSize.toNat then
          (if s.pageSize.toNat < s.tail.toNat then .wrapRoom else .wrapFull)
        else .linear
      else if s.head.toNat < s.tail.toNat then .lappedRoom else .lappedFull := by
  rw [State.writeLeaf, writeCaseLeaves]
  simp only [← flip_eq_zero_iff, gt_iff_lt]

/-- The state in which the transfer of a WRITE starts: after the fetch, and after the wrap commit if the leaf makes one. -/
def State.putStart (s : State) (len : Half) : State :=
  if s.writeLeaf = .wrapRoom then (s.fetched (.write len)).wrapHead else s.fetched (.write len)

section
variable (s : State) (len : Half)

@[simp] theorem State.putStart_hb : (s.putStart len).hb = s.hb := by unfold State.putStart; split <;> simp
@[simp] theorem State.putStart_T : (s.putStart len).T = s.tail := by unfold State.putStart; split <;> simp
@[simp] theorem State.putStart_P : (s.putStart len).P = s.pageSize := by unfold State.putStart; split <;> simp
@[simp] theorem State.putStart_M : (s.putStart len).M = s.M := by unfold State.putStart; split <;> simp
@[simp] theorem State.putStart_OP : (s.putStart len).OP = Instr.opcode (.write len) := by
  unfold State.putStart; split <;> simp
@[simp] theorem State.putStart_RSV : (s.putStart len).RSV = 0 := by unfold State.putStart; split <;> simp
@[simp] theorem State.putStart_ARG : (s.putStart len).ARG = Instr.arg (.write len) := by
  unfold State.putStart; split <;> simp
@[simp] theorem State.putStart_rspReady : (s.putStart len).rspReady = s.rspReady := by
  unfold State.putStart; split <;> simp
@[simp] theorem State.putStart_rst : (s.putStart len).rst = s.rst := by unfold State.putStart; split <;> simp
@[simp] theorem State.putStart_faultRec : (s.putStart len).faultRec = s.faultRec := by
  unfold State.putStart; split <;> simp

/-- H is the base of the transfer (20_memory R61). -/
@[simp] theorem State.putStart_H : (s.putStart len).H = s.writeBase := by
  unfold State.putStart State.writeBase; split <;> simp

@[simp] theorem State.putStart_F : (s.putStart len).F = if s.writeLeaf = .wrapRoom then 0x01 else s.flip := by
  unfold State.putStart; split <;> simp

/-- The wrap commit's three bytes are the only ones that may have changed (40_engine R106). -/
theorem State.putStart_read (a : Nat) :
    (s.putStart len).store.read a =
      if s.writeLeaf = .wrapRoom ∧ (a = 0x7FE4 ∨ a = 0x7FE5) then 0x00
      else if s.writeLeaf = .wrapRoom ∧ a = 0x7FEA then 0x01 else s.store.read a := by
  unfold State.putStart
  by_cases hwrap : s.writeLeaf = .wrapRoom
  · by_cases hA : a = 0x7FEA
    · simp [hwrap, hA]
    · by_cases h4 : a = 0x7FE4 <;> simp [hwrap, hA, h4]
  · simp [hwrap]

/-- No response has been issued when the transfer starts. -/
theorem State.putStart_count_respond : countKind .respond (s.putStart len).log = 0 := by
  unfold State.putStart
  split <;> simp [countKind_fetchEvents, Event.kind]

end

section
variable {s : State} {len : Half}

/-- The three leaves with room are one path: the transfer to the base, the pointer advance, the response. -/
theorem execWrite_of_room (hroom : s.writeLeaf.result = true) :
    exec (.write len) s = andThen ((s.putStart len).putPage s.writeBase len) fun t =>
      .next ((t.commitHead (paeSum s.writeBase s.pageSize)).respond .ok true) := by
  unfold State.putStart State.writeBase
  rw [exec, execWrite_eq]
  cases hleaf : s.writeLeaf <;> rw [hleaf] at hroom
  case linear | wrapRoom | lappedRoom => rfl
  case wrapFull | lappedFull => cases hroom

/-- A WRITE that stores a page inside the store: `t` is what its transfer leaves. -/
theorem execWrite_stores (hroom : s.writeLeaf.result = true) (hfit : fits s.writeBase s.pageSize) :
    ∃ t : State, exec (.write len) s = .next ((t.commitHead (paeSum s.writeBase s.pageSize)).respond .ok true)
      ∧ t = { s.putStart len with store := t.store, I := t.I, log := t.log, seq := t.seq }
      ∧ ∀ a, t.store.read a =
          if s.writeBase.toNat ≤ a ∧ a < s.writeBase.toNat + s.pageSize.toNat
            then recordByte s.hb len (a - s.writeBase.toNat)
          else (s.putStart len).store.read a := by
  obtain ⟨t, ht, hall, hstore, -⟩ := putPage_next (s.putStart len) s.writeBase len (by simpa using hfit)
  refine ⟨t, by rw [execWrite_of_room hroom, ht, andThen_next], hall, fun a => ?_⟩
  rw [hstore, ← putEventsFrom_zero, read_replay_putEventsFrom, State.putStart_hb, State.putStart_P]
  rfl

/-- The leaves that store a page inside the store: events, response and working registers. -/
theorem execWrite_stores_follows (hroom : s.writeLeaf.result = true) (hfit : fits s.writeBase s.pageSize) :
    ∃ t : State, exec (.write len) s = .next t
      ∧ t.log.reverse = fetchEvents s.store ++ s.eventsOfWrite len ++ [.respond 0x01]
      ∧ t.responded 0x01 ∧ t.H = s.writeBase ∧ t.T = s.tail ∧ t.P = s.pageSize
      ∧ t.F = if s.writeLeaf = .wrapRoom then 0x01 else s.flip := by
  obtain ⟨t, ht, hall, -⟩ := execWrite_stores (len := len) hroom hfit
  refine ⟨_, ht, execWrite_log ht, State.respond_responded _ .ok true, ?_, ?_, ?_, ?_⟩ <;> rw [hall] <;> simp

/-- The two leaves with room that make no wrap commit store the page at head. -/
theorem execWrite_stores_at_head (hleaf : s.writeLeaf = .linear ∨ s.writeLeaf = .lappedRoom)
    (hfit : fits s.head s.pageSize) :
    ∃ t : State, exec (.write len) s = .next t
      ∧ t.log.reverse = fetchEvents s.store ++ putEvents s.hb len s.head.toNat s.pageSize.toNat
          ++ commitHeadEvents (s.head.toNat + s.pageSize.toNat) ++ [.respond 0x01]
      ∧ t.responded 0x01 ∧ t.H = s.head ∧ t.T = s.tail ∧ t.P = s.pageSize ∧ t.F = s.flip := by
  have hwrap : s.writeLeaf ≠ .wrapRoom := by obtain h | h := hleaf <;> simp [h]
  have hbase : s.writeBase = s.head := if_neg hwrap
  have hroom : s.writeLeaf.result = true := by obtain h | h := hleaf <;> rw [h] <;> rfl
  have hevents : s.eventsOfWrite len = putEvents s.hb len s.head.toNat s.pageSize.toNat
      ++ commitHeadEvents (s.head.toNat + s.pageSize.toNat) := by
    obtain h | h := hleaf <;> rw [State.eventsOfWrite, h]
  have h := execWrite_stores_follows (len := len) hroom (by rwa [hbase])
  rwa [hevents, hbase, if_neg hwrap, ← List.append_assoc] at h

end

/-! ### The events of each leaf (42_write R151) -/

/-- Settles O26: each clause's conditions give its leaf; the leaves with room share one path, and the full ones end after
the fetch and the wrap commit. -/
theorem writeFollowsItsLeaf : Obligations.WriteFollowsItsLeaf := by
  intro len s
  have hleaf := s.writeLeaf_eq
  have hC : Config.capacity = 32768 := rfl
  refine ⟨fun h0 hlin => ?_, fun h0 hwrap hroom hfit => ?_, fun h0 hwrap hfull => ?_, fun h1 hroom hfit => ?_,
    fun h1 hfull => ?_⟩
  · rw [if_pos h0, if_neg (by omega)] at hleaf
    exact execWrite_stores_at_head (.inl hleaf) (.inr (by omega))
  · rw [if_pos h0, if_pos hwrap, if_pos hroom] at hleaf
    have hbase : s.writeBase = 0 := if_pos hleaf
    have h := execWrite_stores_follows (len := len) (by rw [hleaf]; rfl) (by rwa [hbase])
    simpa only [State.eventsOfWrite, hleaf, hbase, if_true, List.append_assoc] using h
  · rw [if_pos h0, if_pos hwrap, if_neg hfull] at hleaf
    have ht := execWrite_of_wrapFull (len := len) hleaf
    have hlog := execWrite_log ht
    rw [State.eventsOfWrite, hleaf] at hlog
    exact ⟨_, ht, hlog, State.respond_responded _ .ok false, by simp, by simp, by simp, by simp⟩
  · rw [if_neg h1, if_pos hroom] at hleaf
    exact execWrite_stores_at_head (.inr hleaf) hfit
  · rw [if_neg h1, if_neg hfull] at hleaf
    have ht := execWrite_of_lappedFull (len := len) hleaf
    have hlog := execWrite_log ht
    rw [State.eventsOfWrite, hleaf, List.append_nil] at hlog
    exact ⟨_, ht, hlog, State.respond_responded _ .ok false, by simp, by simp, by simp, by simp⟩

/-! ### Every store byte after a WRITE (42_write R152, R156) -/

/-- Settles O27: the pointer advance overrides the page, and the page the wrap commit; the full leaves transfer no byte. -/
theorem writeResultAndFrame : Obligations.WriteResultAndFrame := by
  intro len s
  refine ⟨fun hroom hfit => ?_, fun hleaf => ?_, fun hleaf => ?_⟩
  · obtain ⟨t, ht, hall, hread⟩ := execWrite_stores (len := len) hroom hfit
    refine ⟨_, ht, fun a => ?_, rfl, ?_, ?_, ⟨?_, ?_, ?_⟩, ?_, ?_, ?_⟩
    · by_cases h4 : a = 0x7FE4
      · simp [h4]
      · by_cases h5 : a = 0x7FE5
        · simp [h5]
        · simp [hread, State.putStart_read, h4, h5, and_comm]
    all_goals rw [hall]; simp
  · refine ⟨_, execWrite_of_wrapFull hleaf, fun a => ?_, rfl, ?_⟩
    · by_cases hA : a = 0x7FEA
      · simp [hA]
      · by_cases h5 : a = 0x7FE5 <;> simp [hA, h5]
    · simp [State.latched, State.sameInputs]
  · exact ⟨_, execWrite_of_lappedFull hleaf, by simp [State.latched, State.sameInputs]⟩

/-! ### A page past the store (42_write R154, 60_exceptions R215) -/

/-- Settles O28: the transfer faults in the state PutPage leaves, over the bytes of the wrap commit; the record then
repeats the fault. -/
theorem writePastTheStoreFaults : Obligations.WritePastTheStoreFaults := by
  intro len s hroom hfit
  obtain ⟨l, hl, heq⟩ := putPage_fault (s.putStart len) s.writeBase len (by simpa using hfit)
  have hfault : l.faultRec = some (max s.writeBase.toNat Config.capacity) := by rw [heq]
  refine ⟨l, by rw [execWrite_of_room hroom, hl, andThen_fault], hfault, fun a => ?_, by rw [heq]; simp, ?_,
    fun hr => step_faulted hr hfault⟩
  · have hrange : (s.writeBase.toNat + 0 ≤ a ∧ a < s.writeBase.toNat + 0 + (Config.capacity - s.writeBase.toNat))
        ↔ (s.writeBase.toNat ≤ a ∧ a < Config.capacity) := by omega
    rw [heq]
    simp only [← putEventsFrom_zero, read_replay_putEventsFrom, hrange, State.putStart_read, State.putStart_hb]
  · rw [heq, ← countKind_eq_zero_iff]
    simp [countKind_faultEvent_respond, countKind_putEvents, State.putStart_count_respond]

end Sys2Proof.Machine
end

section
/-! SUPPORT. The settled statements on READ: the events of each leaf, HB and every store byte it leaves, and the fault of a
page that reaches past the store. -/

namespace Sys2Proof.Machine

/-! ### Where the transfer of a READ starts (43_read R171) -/

/-- The leaf a READ takes, on the persisted fields (40_engine R114). -/
theorem State.readLeaf_eq (s : State) :
    s.readLeaf =
      if s.flip = 0 then (if s.tail.toNat < s.head.toNat then .linearData else .linearEmpty)
      else if 0x7FE0 < s.tail.toNat + s.pageSize.toNat then (if 0 < s.head.toNat then .wrapData else .wrapEmpty)
      else .lappedData := by
  rw [State.readLeaf, readCaseLeaves]
  simp only [← flip_eq_zero_iff, gt_iff_lt]

/-- The state in which the transfer of a READ starts: after the fetch, and after the wrap commit if the leaf makes one. -/
def State.getStart (s : State) : State :=
  if s.readLeaf = .wrapData then (s.fetched .read).wrapTail else s.fetched .read

section
variable (s : State)

@[simp] theorem State.getStart_hb : s.getStart.hb = s.hb := by unfold State.getStart; split <;> simp
@[simp] theorem State.getStart_H : s.getStart.H = s.head := by unfold State.getStart; split <;> simp
@[simp] theorem State.getStart_P : s.getStart.P = s.pageSize := by unfold State.getStart; split <;> simp
@[simp] theorem State.getStart_M : s.getStart.M = s.M := by unfold State.getStart; split <;> simp
@[simp] theorem State.getStart_OP : s.getStart.OP = Instr.opcode .read := by unfold State.getStart; split <;> simp
@[simp] theorem State.getStart_RSV : s.getStart.RSV = 0 := by unfold State.getStart; split <;> simp
@[simp] theorem State.getStart_ARG : s.getStart.ARG = Instr.arg .read := by unfold State.getStart; split <;> simp
@[simp] theorem State.getStart_rspReady : s.getStart.rspReady = s.rspReady := by unfold State.getStart; split <;> simp
@[simp] theorem State.getStart_rst : s.getStart.rst = s.rst := by unfold State.getStart; split <;> simp
@[simp] theorem State.getStart_faultRec : s.getStart.faultRec = s.faultRec := by unfold State.getStart; split <;> simp

/-- T is the base of the transfer (20_memory R61). -/
@[simp] theorem State.getStart_T : s.getStart.T = s.readBase := by
  unfold State.getStart State.readBase; split <;> simp

@[simp] theorem State.getStart_F : s.getStart.F = if s.readLeaf = .wrapData then 0x00 else s.flip := by
  unfold State.getStart; split <;> simp

/-- The transfer reads the store that the wrap commit leaves (43_read R171). -/
@[simp] theorem State.getStart_store : s.getStart.store = s.readStore := by
  unfold State.getStart State.readStore; split <;> simp

/-- No response has been issued when the transfer starts. -/
theorem State.getStart_count_respond : countKind .respond s.getStart.log = 0 := by
  unfold State.getStart
  split <;> simp [countKind_fetchEvents, Event.kind]

/-- The wrap commit's three bytes are the only ones that may have changed (40_engine R106). -/
theorem State.readStore_read (a : Nat) :
    s.readStore.read a =
      if s.readLeaf = .wrapData ∧ (a = 0x7FE6 ∨ a = 0x7FE7 ∨ a = 0x7FEA) then 0x00 else s.store.read a := by
  unfold State.readStore
  by_cases hwrap : s.readLeaf = .wrapData
  · by_cases hA : a = 0x7FEA
    · simp [hwrap, hA]
    · by_cases h7 : a = 0x7FE7 <;> simp [hwrap, hA, h7]
  · simp [hwrap]

end

section
variable {s : State}

/-- The three leaves with data are one path: the transfer from the base, the tail advance, the response. -/
theorem execRead_of_data (hdata : s.readLeaf.result = true) :
    exec .read s = andThen (s.getStart.getPage s.readBase) fun t =>
      .next ((t.commitTail (paeSum s.readBase s.pageSize)).respond .ok true) := by
  unfold State.getStart State.readBase
  rw [exec, execRead_eq]
  cases hleaf : s.readLeaf <;> rw [hleaf] at hdata
  case linearData | wrapData | lappedData => rfl
  case linearEmpty | wrapEmpty => cases hdata

/-- A READ that returns a page inside the store: `t` is what its transfer leaves. -/
theorem execRead_loads (hdata : s.readLeaf.result = true) (hfit : fits s.readBase s.pageSize) :
    ∃ t : State, exec .read s = .next ((t.commitTail (paeSum s.readBase s.pageSize)).respond .ok true)
      ∧ t = { s.getStart with hb := t.hb, I := t.I, log := t.log, seq := t.seq }
      ∧ ∀ j, t.hb.read j =
          if j < s.pageSize.toNat then s.readStore.read (s.readBase.toNat + j) else s.hb.read j := by
  obtain ⟨t, ht, hall, hhb, -⟩ := getPage_next s.getStart s.readBase (by simpa using hfit)
  exact ⟨t, by rw [execRead_of_data hdata, ht, andThen_next], hall, by simpa using hhb⟩

/-- The leaves that return a page inside the store: events, response and working registers. -/
theorem execRead_loads_follows (hdata : s.readLeaf.result = true) (hfit : fits s.readBase s.pageSize) :
    ∃ t : State, exec .read s = .next t
      ∧ t.log.reverse = fetchEvents s.store ++ s.eventsOfRead ++ [.respond 0x01]
      ∧ t.responded 0x01 ∧ t.H = s.head ∧ t.T = s.readBase ∧ t.P = s.pageSize
      ∧ t.F = if s.readLeaf = .wrapData then 0x00 else s.flip := by
  obtain ⟨t, ht, hall, -⟩ := execRead_loads hdata hfit
  refine ⟨_, ht, execRead_log ht, State.respond_responded _ .ok true, ?_, ?_, ?_, ?_⟩ <;> rw [hall] <;> simp

/-- The two leaves with data that make no wrap commit return the page at tail. -/
theorem execRead_loads_at_tail (hleaf : s.readLeaf = .linearData ∨ s.readLeaf = .lappedData)
    (hfit : fits s.tail s.pageSize) :
    ∃ t : State, exec .read s = .next t
      ∧ t.log.reverse = fetchEvents s.store ++ getEvents s.store s.tail.toNat s.pageSize.toNat
          ++ commitTailEvents (s.tail.toNat + s.pageSize.toNat) ++ [.respond 0x01]
      ∧ t.responded 0x01 ∧ t.H = s.head ∧ t.T = s.tail ∧ t.P = s.pageSize ∧ t.F = s.flip := by
  have hwrap : s.readLeaf ≠ .wrapData := by obtain h | h := hleaf <;> simp [h]
  have hbase : s.readBase = s.tail := if_neg hwrap
  have hdata : s.readLeaf.result = true := by obtain h | h := hleaf <;> rw [h] <;> rfl
  have hevents : s.eventsOfRead = getEvents s.store s.tail.toNat s.pageSize.toNat
      ++ commitTailEvents (s.tail.toNat + s.pageSize.toNat) := by
    obtain h | h := hleaf <;> rw [State.eventsOfRead, h]
  have h := execRead_loads_follows hdata (by rwa [hbase])
  rwa [hevents, hbase, if_neg hwrap, ← List.append_assoc] at h

end

/-! ### The events of each leaf (43_read R171) -/

/-- Settles O29: each clause's conditions give its leaf; the leaves with data share one path, and the empty ones end after
the fetch and the wrap commit. -/
theorem readFollowsItsLeaf : Obligations.ReadFollowsItsLeaf := by
  intro s
  have hleaf := s.readLeaf_eq
  have hC : Config.capacity = 32768 := rfl
  refine ⟨fun h0 hdata hfit => ?_, fun h0 hempty => ?_, fun h1 hwrap hdata hfit => ?_, fun h1 hwrap hempty => ?_,
    fun h1 hlapped => ?_⟩
  · rw [if_pos h0, if_pos hdata] at hleaf
    exact execRead_loads_at_tail (.inl hleaf) hfit
  · rw [if_pos h0, if_neg hempty] at hleaf
    have ht := execRead_of_linearEmpty hleaf
    have hlog := execRead_log ht
    rw [State.eventsOfRead, hleaf, List.append_nil] at hlog
    exact ⟨_, ht, hlog, State.respond_responded _ .ok false, by simp, by simp, by simp, by simp⟩
  · rw [if_neg h1, if_pos hwrap, if_pos hdata] at hleaf
    have hbase : s.readBase = 0 := if_pos hleaf
    have h := execRead_loads_follows (by rw [hleaf]; rfl) (by rwa [hbase])
    simpa only [State.eventsOfRead, hleaf, hbase, if_true, List.append_assoc] using h
  · rw [if_neg h1, if_pos hwrap, if_neg (by omega)] at hleaf
    have ht := execRead_of_wrapEmpty hleaf
    have hlog := execRead_log ht
    rw [State.eventsOfRead, hleaf] at hlog
    exact ⟨_, ht, hlog, State.respond_responded _ .ok false, by simp, by simp, by simp, by simp⟩
  · rw [if_neg h1, if_neg (by omega)] at hleaf
    exact execRead_loads_at_tail (.inr hleaf) (.inr (by omega))

/-! ### HB and every store byte after a READ (43_read R172, R173, 20_memory R64) -/

/-- Settles O30: HB by what the transfer leaves; the tail advance overrides the wrap commit, whose flag stands; the empty
leaves transfer no byte. -/
theorem readResultAndFrame : Obligations.ReadResultAndFrame := by
  intro s
  refine ⟨fun hdata hfit => ?_, fun hleaf => ?_, fun hleaf => ?_⟩
  · obtain ⟨t, ht, hall, hhb⟩ := execRead_loads hdata hfit
    have hstore : t.store = s.readStore := by rw [hall]; simp
    refine ⟨_, ht, by simpa using hhb, fun a => ?_, rfl, ?_, ⟨?_, ?_, ?_⟩, ?_, ?_, ?_⟩
    · by_cases h6 : a = 0x7FE6
      · simp [h6]
      · by_cases h7 : a = 0x7FE7
        · simp [h7]
        · simp [hstore, State.readStore_read, h6, h7, and_comm]
    all_goals rw [hall]; simp
  · refine ⟨_, execRead_of_wrapEmpty hleaf, fun a => ?_, rfl, ?_⟩
    · by_cases hA : a = 0x7FEA
      · simp [hA]
      · by_cases h7 : a = 0x7FE7 <;> simp [hA, h7]
    · simp [State.latched, State.sameInputs]
  · exact ⟨_, execRead_of_linearEmpty hleaf, by simp [State.latched, State.sameInputs]⟩

/-! ### A page past the store (43_read R174, 60_exceptions R215) -/

/-- Settles O31: the transfer faults in the state GetPage leaves, over the store of the wrap commit; the record then
repeats the fault. -/
theorem readPastTheStoreFaults : Obligations.ReadPastTheStoreFaults := by
  intro s hdata hfit
  obtain ⟨l, hl, heq, hhb, hlog, -⟩ := getPage_fault s.getStart s.readBase (by simpa using hfit)
  have hfault : l.faultRec = some (max s.readBase.toNat Config.capacity) := by rw [heq]
  refine ⟨l, by rw [execRead_of_data hdata, hl, andThen_fault], hfault, by rw [heq]; simp, fun j => ?_, ?_,
    fun hr => step_faulted hr hfault⟩
  · have hrange : j < Config.capacity - s.readBase.toNat ↔ s.readBase.toNat + j < Config.capacity := by omega
    simpa only [hrange, State.getStart_store, State.getStart_hb] using hhb j
  · rw [hlog, ← countKind_eq_zero_iff]
    simp [countKind_getEvents, State.getStart_count_respond]

end Sys2Proof.Machine
end

section
/-! SUPPORT. The settled statements on the queries: their words, their answers written out, and what they leave to the
commands after them. -/

namespace Sys2Proof.Machine

/-! ### The words of the queries (30_encoding R84) -/

/-- The opcodes from 3 on take no operand (30_encoding R83). -/
theorem arg_eq_zero_of_opcode {i : Instr} (hi : 3 ≤ i.opcode.toNat) : i.arg = 0 := by
  cases i with
  | format | write => simp [Instr.opcode] at hi
  | read | isFull | containsData | isInitialized => rfl

/-- A word with the opcode of a command without an operand is that command's word or illegal (30_encoding R84). -/
theorem decode_of_opcode_without_arg {i : Instr} {w : Word} (hi : 3 ≤ i.opcode.toNat)
    (hop : w.toNat % 16 = i.opcode.toNat) :
    (decode w = .ok i ↔ w = encode i) ∧ (w ≠ encode i → ∃ r, decode w = .error r) := by
  refine ⟨decode_eq_ok_iff.trans eq_comm, fun hne => ?_⟩
  cases hd : decode w with
  | error r => exact ⟨r, rfl⟩
  | ok j =>
    obtain ⟨hopj, hrsv, harg⟩ := fields_of_decode hd
    have hopi : opField w = i.opcode := BitVec.eq_of_toNat_eq ((opField_toNat w).trans hop)
    have hargs : j.arg = i.arg := by
      rw [arg_eq_zero_of_opcode hi, arg_eq_zero_of_opcode (by rwa [← hopj, hopi])]
    exact absurd (encode_eq_iff.2 ⟨hopi, hrsv, harg.trans hargs⟩).symm hne

/-! ### The answers (44_queries R191, R193, R196) -/

/-- An OK response whose RESULT says whether `p` holds (30_encoding R90). -/
theorem State.respond_ok_responded {p : Prop} [Decidable p] {r : Bool} (s : State) (h : r = true ↔ p) :
    (s.respond .ok r).responded (if p then 0x01 else 0x00) := by
  have hword : responseWord .ok r = if p then 0x01 else 0x00 := by
    cases r with
    | true => rw [if_pos (h.1 rfl)]; rfl
    | false => rw [if_neg fun hp => Bool.false_ne_true (h.2 hp)]; rfl
  exact hword ▸ s.respond_responded .ok r

/-- isFull of the persisted fields (40_engine R115). -/
theorem State.isFull_iff (s : State) :
    isFull s.head s.tail s.pageSize s.flip = true ↔
      if s.flip = 0 then 0x7FE0 < s.head.toNat + s.pageSize.toNat ∧ ¬ s.pageSize.toNat < s.tail.toNat
      else ¬ s.head.toNat < s.tail.toNat := by
  rw [isFull_eq_writeLeaf, State.writeLeaf_eq]
  by_cases h0 : s.flip = 0
  · simp only [if_pos h0]
    split_ifs <;> simp [WriteLeaf.result] <;> omega
  · simp only [if_neg h0]
    split_ifs <;> simp [WriteLeaf.result] <;> omega

/-- containsData of the persisted fields (40_engine R116). -/
theorem State.containsData_iff (s : State) :
    containsData s.head s.tail s.pageSize s.flip = true ↔
      if s.flip = 0 then s.tail.toNat < s.head.toNat
      else 0x7FE0 < s.tail.toNat + s.pageSize.toNat → s.head.toNat ≠ 0 := by
  rw [containsData_eq_readLeaf, State.readLeaf_eq]
  by_cases h0 : s.flip = 0
  · simp only [if_pos h0]
    split_ifs <;> simp [ReadLeaf.result] <;> omega
  · simp only [if_neg h0]
    split_ifs <;> simp [ReadLeaf.result] <;> omega

/-- The persisted magic is MAGIC exactly when its four bytes, little-endian, are (20_memory R55). -/
theorem State.magic_eq_iff (s : State) :
    s.magic = Config.magic ↔ (s.store.read 0x7FE0).toNat + 256 * (s.store.read 0x7FE1).toNat
      + 65536 * (s.store.read 0x7FE2).toNat + 16777216 * (s.store.read 0x7FE3).toNat = Config.magic.toNat := by
  obtain ⟨-, -, -, -, hfields⟩ := codecIsLittleEndian
  obtain ⟨-, -, -, hmagic⟩ := hfields s
  rw [← BitVec.toNat_inj, hmagic]

/-- What a query leaves that answers from the fetched fields. -/
theorem State.fetched_respond_frame {s t : State} {i : Instr} {r : Bool} (ht : t = (s.fetched i).respond .ok r) :
    t.H = s.head ∧ t.T = s.tail ∧ t.P = s.pageSize ∧ t.F = s.flip ∧ t.store = s.store ∧ t.hb = s.hb
      ∧ t.M = s.M ∧ t.I = s.I ∧ t.latched i ∧ s.sameInputs t := by
  simp [ht, State.latched, State.sameInputs]

/-- Settles O32: the word by its opcode; the answer by the leaf of the fetched fields. -/
theorem isFullAnswers : Obligations.IsFullAnswers :=
  ⟨fun _ hop => decode_of_opcode_without_arg (i := .isFull) (by decide) hop, fun s =>
    ⟨_, execIsFull_eq s, by simp, State.respond_ok_responded _ s.isFull_iff, State.fetched_respond_frame rfl⟩⟩

/-- Settles O33: the word by its opcode; the answer by the leaf of the fetched fields. -/
theorem containsDataAnswers : Obligations.ContainsDataAnswers :=
  ⟨fun _ hop => decode_of_opcode_without_arg (i := .containsData) (by decide) hop, fun s =>
    ⟨_, execContainsData_eq s, by simp, State.respond_ok_responded _ s.containsData_iff,
      State.fetched_respond_frame rfl⟩⟩

/-- Settles O34: the word by its opcode; the answer by the value of the four bytes read. -/
theorem isInitializedAnswers : Obligations.IsInitializedAnswers :=
  ⟨fun _ hop => decode_of_opcode_without_arg (i := .isInitialized) (by decide) hop, fun s =>
    ⟨_, execIsInitialized_eq s, by simp,
      State.respond_ok_responded _ (decide_eq_true_iff.trans s.magic_eq_iff),
      by simp [State.latched, State.sameInputs]⟩⟩

/-! ### What a query changes and issues (44_queries R190) -/

/-- A query leaves HB as it was. -/
theorem exec_query_hb {q : Instr} {s t : State} (hq : q = .isFull ∨ q = .containsData ∨ q = .isInitialized)
    (h : exec q s = .next t) : t.hb = s.hb := by
  obtain rfl | rfl | rfl := hq <;> cases h <;> simp

/-- A query issues store reads and its response. -/
theorem exec_query_kinds {q : Instr} {s t : State} (hq : q = .isFull ∨ q = .containsData ∨ q = .isInitialized)
    (h : exec q s = .next t) : ∀ e ∈ t.log, e.kind = .storeRead ∨ e.kind = .respond := by
  obtain rfl | rfl | rfl := hq <;> cases h <;> simp [Event.kind]

/-- Settles O35: a query leaves store and HB, and they alone decide every command after it, the same query too. -/
theorem queriesMutateNothing : Obligations.QueriesMutateNothing := by
  intro q s t hmem h
  have hq : q = .isFull ∨ q = .containsData ∨ q = .isInitialized := by simpa using hmem
  have hstore := exec_query_store hq h
  have hhb := exec_query_hb hq h
  have halike := fun i => (workingRegistersAreDead i s t hstore.symm hhb.symm).1
  refine ⟨exec_query_kinds hq h, hstore, hhb, ?_, fun i v hv => ?_⟩
  · obtain ⟨u, hu, -, -, -, hword, -⟩ := halike q t h
    exact ⟨u, hu, hword⟩
  · obtain ⟨u, hu, hustore, huhb, hulog, -⟩ := halike i v hv
    exact ⟨u, hu, hustore, huhb, hulog⟩

/-! ### What a query foretells (44_queries R192, R194) -/

/-- A READ that completes answers with the RESULT of its leaf (43_read R173). -/
theorem exec_read_RES {s t : State} (h : exec .read s = .next t) : t.RES = s.readLeaf.result := by
  rw [exec, execRead_eq] at h
  cases hleaf : s.readLeaf <;> rw [hleaf] at h
  case linearData | wrapData | lappedData =>
    obtain ⟨u, -, hu⟩ := andThen_eq_next.1 h
    cases hu; rfl
  case linearEmpty | wrapEmpty => cases h; rfl

/-- Settles O36: the query and the command after it answer by the same leaf, which the store decides. -/
theorem queriesForetellResults : Obligations.QueriesForetellResults := by
  refine ⟨fun len s t u ht hu => ?_, fun s t u ht hu => ?_⟩
  · have hstore : t.takeResponse.store = s.store := t.takeResponse_store.trans (exec_query_store (.inl rfl) ht)
    have hleaf := State.writeLeaf_congr hstore
    rw [exec_write_RES hu, exec_isFull_RES ht, hleaf, Bool.not_not]
  · have hstore : t.takeResponse.store = s.store :=
      t.takeResponse_store.trans (exec_query_store (.inr (.inl rfl)) ht)
    have hleaf := State.readLeaf_congr hstore
    rw [exec_read_RES hu, exec_containsData_RES ht, hleaf]

end Sys2Proof.Machine
end

section
/-! SUPPORT. The settled statements on reset, on the events of a busy engine, on the store between commands, and on the
responses of a run up to its end. -/

namespace Sys2Proof.Machine

/-! ### Reset (70_reset R240, R241) -/

/-- Settles O9: the reset engine's fields. -/
theorem resetForcesIdle : Obligations.ResetForcesIdle := fun _ hr =>
  ⟨_, step_reset hr, rfl, rfl, rfl, rfl, rfl, rfl, rfl, rfl, rfl⟩

/-- Power-up over canonical memories meets the invariant (70_reset R241). -/
theorem State.powerUp_wf {store hb : Memory} (hstore : store.wf) (hbelow : store.below Config.capacity) (hhb : hb.wf)
    (hhbBelow : hb.below hbSize) : (State.powerUp store hb).wf :=
  ⟨hstore, hbelow, hhb, hhbBelow, by simp [State.powerUp, State.reset], rfl, rfl⟩

/-- Settles O10: the reset state is power-up over memories that list nothing. -/
theorem resetMeetsTheInvariant : Obligations.ResetMeetsTheInvariant := by
  have hwf : Memory.wf [] := ⟨List.Pairwise.nil, List.forall_mem_nil _⟩
  exact ⟨State.powerUp_wf hwf (List.forall_mem_nil _) hwf (List.forall_mem_nil _),
    fun _ _ hstore hbelow hhb hhbBelow => State.powerUp_wf hstore hbelow hhb hhbBelow⟩

/-! ### A busy engine never stalls (10_state R35, 70_reset R261) -/

/-- An event answers a next state, or is the StoreRange fault of an access at or above C (60_exceptions R215). -/
theorem State.event_next_or_raise (s : State) :
    (∃ t, s.event = .next t) ∨ ∃ a, Config.capacity ≤ a ∧ s.event = s.raise a := by
  unfold State.event
  cases s.request with
  | none => exact .inl ⟨_, rfl⟩
  | some q =>
    cases q with
    | storeRead a | storeWrite a v =>
      by_cases ha : a < Config.capacity
      · exact .inl ⟨_, if_pos ha⟩
      · exact .inr ⟨a, not_lt.1 ha, if_neg ha⟩
    | hbRead i | hbWrite i v | respond st r => exact .inl ⟨_, rfl⟩

/-- Settles O14: under the invariant a busy engine has a request due, and its event performs it or faults. -/
theorem busyEngineIssuesOneEvent : Obligations.BusyEngineIssuesOneEvent := by
  intro s k hs hr hq
  obtain ⟨-, hrest, -⟩ := (State.wf_iff_running hq).1 hs
  rw [step_busy hr (State.faultRec_of_wf hs) hq]
  rcases s.event_next_or_raise with ⟨t, ht⟩ | ⟨a, ha, hraise⟩
  · rcases State.event_next ht with ⟨hnone, -⟩ | ⟨e, hstep⟩
    · exact absurd (s.request_eq_none_iff.1 hnone) hrest
    · exact .inl ⟨t, e, ht, hstep.log⟩
  · exact .inr ⟨a, _, hraise, ha, rfl, rfl, rfl⟩

/-! ### The store between commands (70_reset R250, R252) -/

/-- During a command another agent's write is no move. -/
theorem State.externalWrite_busy {s : State} {k : Nat} (hq : s.seq = .busy k) (a : Nat) (v : Byte) :
    s.externalWrite a v = none := by
  simp [State.externalWrite, State.betweenCommands, hq]

/-- Settles O51: the next fetch reads the store the write leaves: the seven bytes of FetchReadsSevenBytes, the four of
magic. -/
theorem storeIsSharedBetweenCommands : Obligations.StoreIsSharedBetweenCommands := by
  intro s a v ha
  refine ⟨fun k hq => State.externalWrite_busy hq a v, fun hbetween => ?_⟩
  generalize hu : ({ s with store := s.store.write a v } : State) = u
  have hstore : u.store = s.store.write a v := by rw [← hu]
  have hwrite : ∀ b, u.store.read b = if b = a then v else s.store.read b := fun b => by
    rw [hstore, Memory.read_write]
  have hread : ∀ b, u.store.read b = if a = b then v else s.store.read b := fun b =>
    (hwrite b).trans (if_congr eq_comm rfl rfl)
  refine ⟨u, hu ▸ if_pos ⟨hbetween, ha⟩, hwrite, by rw [← hu], by rw [← hu], fun len i hi => ?_, ?_⟩
  · obtain ⟨t, ht, -, hH, hT, hP, hF, -⟩ := fetchReadsSevenBytes.1 len u i hi
    simp only [hread] at hH hT hP hF
    exact ⟨t, ht, hH, hT, hP, hF⟩
  · obtain ⟨-, -, -, -, hfields⟩ := codecIsLittleEndian
    obtain ⟨-, -, -, hmagic⟩ := hfields u
    obtain ⟨t, ht, -, -, hM, -⟩ := isInitializedAnswers.2 u
    simp only [← hM, hread] at hmagic
    exact ⟨t, ht, hmagic⟩

/-! ### The responses of a run (70_reset R262) -/

/-- A step outside a reset that takes no response leaves the run's responses as they were. -/
theorem step_answered {s t : State} (hr : s.rst = false) (hq : ¬ (s.seq = .resp ∧ s.rspReady = true))
    (h : step s = .next t) : t.answered = s.answered := by
  obtain ⟨hexec, hbegin, -⟩ := acceptedWordLeavesThePort
  cases hf : s.faultRec with
  | some a => rw [step_faulted hr hf] at h; cases h
  | none =>
    cases hseq : s.seq with
    | idle =>
      cases hc : s.cmd with
      | none => rw [step_wait hr hf hseq hc] at h; cases h; rfl
      | some w =>
        obtain ⟨-, -, hans, -, -, hrefuse⟩ := hbegin w s
        cases hb : s.byEvent with
        | true => rw [step_begin hr hf hseq hc hb] at h; cases h; exact hans
        | false =>
          cases hd : decode w with
          | ok i =>
            rw [step_exec hr hf hseq hc hb hd] at h
            obtain ⟨-, -, hkept⟩ := hexec i s t (.inl h)
            exact hkept
          | error r => rw [step_refuse hr hf hseq hc hb hd] at h; cases h; exact hrefuse
    | busy k =>
      rw [step_busy hr hf hseq, ← State.events_one] at h
      exact (State.events_keeps h).answered
    | resp =>
      rw [step_hold hr hf hseq (by simpa [hseq] using hq)] at h
      cases h; rfl

/-- No move changes the run's responses. -/
theorem State.move_answered {s t : State} {m : Move} (h : s.move m = some t) : t.answered = s.answered := by
  cases m with
  | present w => rw [State.present_eq_some h]
  | hostWrite idx value =>
    simp only [State.move, State.hostWrite] at h
    split at h <;> cases h
    rfl
  | externalWrite addr value =>
    simp only [State.move, State.externalWrite] at h
    split at h <;> cases h
    rfl
  | setReady ready | assertReset | setByEvent byEvent => cases h; rfl

/-- Where a program has ended there is one response for each of its words. -/
theorem State.responses_length {s : State} {program : List Word} (h : s.answered.map Prod.fst = program) :
    s.endState.responses.length = program.length := by
  simp [State.endState, ← h]

/-- Settles O57: by the situations of a step; a reset leaves no response, and a program is not empty. -/
theorem responsesOfARun : Obligations.ResponsesOfARun := by
  refine ⟨fun s t h => ?_, fun s t m => State.move_answered, fun s program hend => ?_,
    fun s t program hr h hend => ?_⟩
  · cases hr : s.rst with
    | true => rw [step_reset hr] at h; cases h; rfl
    | false =>
      rw [if_neg Bool.false_ne_true]
      split
      · next htake =>
        obtain ⟨hq, hy⟩ := htake
        cases hf : s.faultRec with
        | some a => rw [step_faulted hr hf] at h; cases h
        | none => rw [step_take hr hf hq hy] at h; cases h; rfl
      · next hq => exact step_answered hr hq h
  · obtain ⟨hne, hans, hcmd, hseq, hf⟩ := hend
    have hlen := State.responses_length hans
    exact ⟨hcmd, hf, by simp [State.cmdReady, hseq], by simp [State.rspValid, hseq], hlen,
      hlen ▸ List.length_pos_iff.2 hne⟩
  · rw [step_reset hr] at h
    cases h
    obtain ⟨hne, hans, -⟩ := hend
    exact hne hans.symm

/-! ### A program runs to its end (70_reset R262) -/

/-- From a well-formed state that awaits a command, any word is answered with one of the four response words, and the
state then awaits the next word, well-formed. -/
theorem State.inv.run_serve {s : State} (hs : s.inv) (ha : s.awaiting) (w : Word) :
    ∃ n t r, s.run (serve w n) = some t ∧ t.awaiting ∧ t.inv ∧ t.answered = s.answered ++ [(w, r)]
      ∧ r ∈ [(0x00 : Byte), 0x01, 0x02, 0x04] := by
  by_cases hw : ∃ i, decode w = .ok i
  · obtain ⟨i, hd⟩ := hw
    obtain ⟨u, hu, hinv⟩ := invIsKeptAndNothingFaults.1 i s hs
    obtain ⟨n, t, -, hrun, hawait, hstore, -, hans⟩ := eachCommandIsAnswered.1 w i s u ha hd hu
    obtain ⟨_, st, r, rfl, hmem, -⟩ := exec_eq_respond hu
    have hsub : [(0x00 : Byte), 0x01, 0x04] ⊆ [0x00, 0x01, 0x02, 0x04] := by decide
    exact ⟨n, t, _, hrun, hawait, hinv.congr hstore, hans, hsub hmem⟩
  · obtain ⟨n, t, -, hrun, hawait, hstore, -, hans⟩ := eachCommandIsAnswered.2 w s ha hw
    exact ⟨n, t, _, hrun, hawait, hs.congr hstore, hans, by simp⟩

/-- The words of a program are answered one after another. -/
theorem State.inv.run_program {s : State} (hs : s.inv) (ha : s.awaiting) (program : List Word) :
    ∃ (steps : List Nat) (t : State) (rs : List Byte), steps.length = program.length
      ∧ s.run ((program.zip steps).flatMap fun c => serve c.1 c.2) = some t ∧ t.awaiting ∧ t.inv
      ∧ rs.length = program.length ∧ t.answered = s.answered ++ program.zip rs
      ∧ ∀ r ∈ rs, r ∈ [(0x00 : Byte), 0x01, 0x02, 0x04] := by
  induction program generalizing s with
  | nil => exact ⟨[], s, [], rfl, rfl, ha, hs, rfl, (List.append_nil _).symm, List.forall_mem_nil _⟩
  | cons w program ih =>
    obtain ⟨n, u, r, hrun, hawait, hinv, hans, hr⟩ := hs.run_serve ha w
    obtain ⟨steps, t, rs, hsteps, hrest, htawait, htinv, hlen, htans, hrs⟩ := ih hinv hawait
    refine ⟨n :: steps, t, r :: rs, congrArg _ hsteps, ?_, htawait, htinv, congrArg _ hlen, ?_,
      List.forall_mem_cons.2 ⟨hr, hrs⟩⟩
    · rw [List.zip_cons_cons, List.flatMap_cons, State.run_append, hrun, Option.bind_some, hrest]
    · rw [htans, hans, List.append_assoc]; rfl

/-- Settles O59: from an empty sequence of responses, the words answered are the program. -/
theorem programRunsToItsEnd : Obligations.ProgramRunsToItsEnd := by
  intro program s hne hs ha hempty
  obtain ⟨steps, t, rs, hsteps, hrun, hawait, hinv, hlen, hans, hrs⟩ := hs.run_program ha program
  obtain ⟨hidle, hcmd, -, hf⟩ := hawait
  rw [hempty, List.nil_append] at hans
  have hwords : t.answered.map Prod.fst = program := by rw [hans, List.map_fst_zip hlen.ge]
  have hresponses : t.endState.responses = rs := by rw [State.endState, hans, List.map_snd_zip hlen.le]
  exact ⟨steps, t, hsteps, hrun, ⟨hne, hwords, hcmd, hidle, hf⟩, hinv, State.responses_length hwords,
    hresponses ▸ hrs⟩

end Sys2Proof.Machine
end

section
/-! SUPPORT. The settled statements on cuts: what a reset or a power loss between two events of a transaction leaves of
the store, of HB and of the stored records. -/

namespace Sys2Proof.Machine

/-! ### The writes before a cut (70_reset R242, R243) -/

/-- From acceptance on, the log's writes, in order, make the store. -/
theorem State.begin_events_replay {n : Nat} {w : Word} {s t : State} (he : State.events n (s.begin w) = .next t) :
    t.store = replay s.store t.log :=
  (State.events_preserve EventStep.logFaithful (s.begin_logFaithful w) he).store

/-- Settles O17: the log is faithful to the store the transaction began over, and a reset changes no byte. -/
theorem cutLeavesTheWritesIssuedBefore : Obligations.CutLeavesTheWritesIssuedBefore :=
  fun _ _ _ _ he => ⟨State.begin_events_replay he, _, step_reset rfl, rfl, rfl, rfl, rfl, rfl⟩

/-! ### A cut before the first write (70_reset R244) -/

/-- Once `m` events have led to `t`, the further ones start there. -/
theorem State.events_after {m : Nat} {s t : State} (h : State.events m s = .next t) (n : Nat) :
    State.events (m + n) s = State.events n t := by
  rw [State.events_add, h, andThen_next]

/-- The events before a cut are the oldest ones of the transaction that goes on. -/
theorem State.log_suffix_of_le {n N : Nat} {s t u : State} (hn : n ≤ N) (ht : State.events n s = .next t)
    (hu : State.events N s = .next u) : t.log <:+ u.log := by
  obtain ⟨k, rfl⟩ := Nat.exists_eq_add_of_le hn
  rw [State.events_after ht] at hu
  obtain ⟨newer, hlog, -⟩ := State.events_replay hu
  exact ⟨newer, hlog.symm⟩

/-- Where the transaction ends, any number of events is a cut of it. -/
theorem State.log_suffix_of_rest {n N : Nat} {s t u : State} (hrest : u.point = .rest)
    (ht : State.events n s = .next t) (hu : State.events N s = .next u) : t.log <:+ u.log := by
  rcases Nat.le_total n N with hle | hle
  · exact State.log_suffix_of_le hle ht hu
  · obtain ⟨k, rfl⟩ := Nat.exists_eq_add_of_le hle
    rw [State.events_after hu, State.events_rest hrest] at ht
    cases ht
    exact List.suffix_refl _

/-- Every event so far was a store read or the response. -/
def State.ReadOnly (s : State) : Prop := ∀ e ∈ s.log, e.kind = .storeRead ∨ e.kind = .respond

/-- Store reads and the response change no byte. -/
theorem EventStep.readOnly {s t : State} {e : Event} (h : EventStep s t e)
    (he : e.kind = .storeRead ∨ e.kind = .respond) : t.store = s.store ∧ t.hb = s.hb := by
  rw [h.store, h.hb]
  cases e with
  | storeRead | respond => exact ⟨rfl, rfl⟩
  | storeWrite | hbRead | hbWrite => simp [Event.kind] at he

/-- A transaction that has only read so far has changed no byte. -/
theorem State.ReadOnly.unchanged {n : Nat} {w : Word} {s t : State} (hro : t.ReadOnly)
    (he : State.events n (s.begin w) = .next t) : t.store = s.store ∧ t.hb = s.hb := by
  obtain ⟨-, -, hstore, hhb, -⟩ := s.begin_fields w
  refine State.events_preserve (motive := fun u => u.ReadOnly → u.store = s.store ∧ u.hb = s.hb)
    (fun {u v e} hstep hu hv => ?_) (fun _ => ⟨hstore, hhb⟩) he hro
  rw [State.ReadOnly, hstep.log, List.forall_mem_cons] at hv
  obtain ⟨hkind, holder⟩ := hv
  obtain ⟨hvs, hvh⟩ := hstep.readOnly hkind
  obtain ⟨hus, huh⟩ := hu holder
  exact ⟨hvs.trans hus, hvh.trans huh⟩

/-- The seven reads of the fetch (40_engine R104). -/
theorem State.fetched_readOnly (s : State) (i : Instr) : (s.fetched i).ReadOnly := by
  intro e he
  rw [State.fetched_log, List.mem_reverse, fetchEvents, readEvents, List.mem_map] at he
  obtain ⟨a, -, rfl⟩ := he
  exact .inl rfl

/-- A cut in a query changes nothing. -/
theorem State.query_cut {q : Instr} {n : Nat} {s t : State}
    (hq : q = .isFull ∨ q = .containsData ∨ q = .isInitialized)
    (ht : State.events n (s.begin (encode q)) = .next t) : t.store = s.store ∧ t.hb = s.hb := by
  obtain ⟨N, -, hN⟩ := s.begin_reachesWithin_exec q
  obtain ⟨u, hu⟩ : ∃ u, exec q s = .next u := by obtain rfl | rfl | rfl := hq <;> exact ⟨_, rfl⟩
  obtain ⟨_, _, _, rfl, -⟩ := exec_eq_respond hu
  have hsuffix := State.log_suffix_of_rest rfl ht (hN.trans hu)
  exact State.ReadOnly.unchanged (fun e he => exec_query_kinds hq hu e (hsuffix.subset he)) ht

/-- A cut in the metadata fetch changes nothing. -/
theorem State.fetch_cut {i : Instr} {n : Nat} {s t : State}
    (hi : i = .read ∨ i = .isFull ∨ i = .containsData ∨ ∃ len, i = .write len) (hn : n ≤ 7)
    (ht : State.events n (s.begin (encode i)) = .next t) : t.store = s.store ∧ t.hb = s.hb := by
  have hfetch : State.events 7 (s.begin (encode i)) = .next (s.fetched i).afterFetch := by
    rw [s.begin_fetch hi, State.events_fetch]; rfl
  obtain ⟨-, -, -, -, -, -, hlog⟩ := (s.fetched i).afterFetch_fields
  have hsuffix := State.log_suffix_of_le hn ht hfetch
  rw [hlog] at hsuffix
  exact State.ReadOnly.unchanged (fun e he => s.fetched_readOnly i e (hsuffix.subset he)) ht

/-! ### Where the events of WRITE and READ lead (42_write R151, 43_read R171) -/

section
variable {s : State} {len : Half}

theorem State.events_write_fetch (s : State) (len : Half) :
    State.events 7 (s.begin (encode (.write len))) = .next (s.fetched (.write len)).chooseWrite := by
  rw [← State.afterFetch_fetched_write, s.begin_write, State.events_fetch]; rfl

theorem State.events_read_fetch (s : State) :
    State.events 7 (s.begin (encode .read)) = .next (s.fetched .read).chooseRead := by
  rw [← State.afterFetch_fetched_read, s.begin_fetch (.inl rfl), State.events_fetch]; rfl

/-- The leaves of WRITE that wrap start with the wrap commit; the others with room start with the transfer. -/
theorem State.chooseWrite_of_wrap (hleaf : s.writeLeaf = .wrapRoom ∨ s.writeLeaf = .wrapFull) :
    (s.fetched (.write len)).chooseWrite = (s.fetched (.write len)).setPoint (.wrapHead 0 s.writeLeaf.result) := by
  simp only [State.chooseWrite, State.fetched_H, State.fetched_T, State.fetched_P, State.fetched_F]
  rw [← State.writeLeaf]
  obtain h | h := hleaf <;> rw [h] <;> rfl

theorem State.chooseWrite_of_room (hroom : s.writeLeaf.result = true) (hwrap : s.writeLeaf ≠ .wrapRoom) :
    (s.fetched (.write len)).chooseWrite = (s.fetched (.write len)).startPut := by
  simp only [State.chooseWrite, State.fetched_H, State.fetched_T, State.fetched_P, State.fetched_F]
  rw [← State.writeLeaf]
  cases hleaf : s.writeLeaf with
  | linear | lappedRoom => rfl
  | wrapRoom => exact absurd hleaf hwrap
  | wrapFull | lappedFull => rw [hleaf] at hroom; cases hroom

/-- The leaves of READ that wrap start with the wrap commit; the others with data start with the transfer. -/
theorem State.chooseRead_of_wrap (hleaf : s.readLeaf = .wrapData ∨ s.readLeaf = .wrapEmpty) :
    (s.fetched .read).chooseRead = (s.fetched .read).setPoint (.wrapTail 0 s.readLeaf.result) := by
  simp only [State.chooseRead, State.fetched_H, State.fetched_T, State.fetched_P, State.fetched_F]
  rw [← State.readLeaf]
  obtain h | h := hleaf <;> rw [h] <;> rfl

theorem State.chooseRead_of_data (hdata : s.readLeaf.result = true) (hwrap : s.readLeaf ≠ .wrapData) :
    (s.fetched .read).chooseRead = (s.fetched .read).startGet := by
  simp only [State.chooseRead, State.fetched_H, State.fetched_T, State.fetched_P, State.fetched_F]
  rw [← State.readLeaf]
  cases hleaf : s.readLeaf with
  | linearData | lappedData => rfl
  | wrapData => exact absurd hleaf hwrap
  | linearEmpty | wrapEmpty => rw [hleaf] at hdata; cases hdata

/-- The fetch, then `n` events of WRITE's wrap commit. -/
theorem State.events_write_wrap (hleaf : s.writeLeaf = .wrapRoom ∨ s.writeLeaf = .wrapFull) (n : Nat) :
    State.events (7 + n) (s.begin (encode (.write len)))
      = State.events n ((s.fetched (.write len)).setPoint (.wrapHead 0 s.writeLeaf.result)) := by
  rw [State.events_after (s.events_write_fetch len), State.chooseWrite_of_wrap hleaf]

/-- The fetch, then `n` events of READ's wrap commit. -/
theorem State.events_read_wrap (hleaf : s.readLeaf = .wrapData ∨ s.readLeaf = .wrapEmpty) (n : Nat) :
    State.events (7 + n) (s.begin (encode .read))
      = State.events n ((s.fetched .read).setPoint (.wrapTail 0 s.readLeaf.result)) := by
  rw [State.events_after s.events_read_fetch, State.chooseRead_of_wrap hleaf]

/-- The events of WRITE up to its transfer. -/
theorem State.events_putStart (hroom : s.writeLeaf.result = true) :
    State.events (if s.writeLeaf = .wrapRoom then 10 else 7) (s.begin (encode (.write len)))
      = .next (s.putStart len).startPut := by
  unfold State.putStart
  by_cases hwrap : s.writeLeaf = .wrapRoom
  · rw [if_pos hwrap, if_pos hwrap, State.events_write_wrap (.inl hwrap) 3, State.events_wrapHead, if_pos hroom]
  · rw [if_neg hwrap, if_neg hwrap, State.events_write_fetch, State.chooseWrite_of_room hroom hwrap]

/-- The events of READ up to its transfer. -/
theorem State.events_getStart (hdata : s.readLeaf.result = true) :
    State.events (if s.readLeaf = .wrapData then 10 else 7) (s.begin (encode .read)) = .next s.getStart.startGet := by
  unfold State.getStart
  by_cases hwrap : s.readLeaf = .wrapData
  · rw [if_pos hwrap, if_pos hwrap, State.events_read_wrap (.inl hwrap) 3, State.events_wrapTail, if_pos hdata]
  · rw [if_neg hwrap, if_neg hwrap, State.events_read_fetch, State.chooseRead_of_data hdata hwrap]

end

/-! ### The persisted fields where a transfer starts -/

section
variable (s : State) (len : Half)

@[simp] theorem State.putStart_head : (s.putStart len).head = s.writeBase := by
  unfold State.putStart State.writeBase; split <;> simp
@[simp] theorem State.putStart_tail : (s.putStart len).tail = s.tail := by unfold State.putStart; split <;> simp
@[simp] theorem State.putStart_pageSize : (s.putStart len).pageSize = s.pageSize := by
  unfold State.putStart; split <;> simp
@[simp] theorem State.putStart_flip : (s.putStart len).flip = if s.writeLeaf = .wrapRoom then 0x01 else s.flip := by
  unfold State.putStart; split <;> simp

@[simp] theorem State.getStart_head : s.getStart.head = s.head := by unfold State.getStart; split <;> simp
@[simp] theorem State.getStart_tail : s.getStart.tail = s.readBase := by
  unfold State.getStart State.readBase; split <;> simp
@[simp] theorem State.getStart_pageSize : s.getStart.pageSize = s.pageSize := by unfold State.getStart; split <;> simp
@[simp] theorem State.getStart_flip : s.getStart.flip = if s.readLeaf = .wrapData then 0x00 else s.flip := by
  unfold State.getStart; split <;> simp

end

/-! ### The ring where a transfer starts (40_engine R122, R123) -/

section
variable {s u : State} {h t : Nat}

/-- N counts the stored records (40_engine R123). -/
theorem State.inv.pageCount_eq (hs : s.inv) : s.pageCount = s.records.length := by
  obtain ⟨h, t, hr⟩ := hs.ring
  have := hr.tail_le
  rw [hr.pageCount_eq, hr.records_eq, List.length_map, State.pages]
  split
  · rw [List.length_range']
  · next h0 =>
    have := hr.le_of_flip_one (hr.flip_eq_one h0)
    rw [List.length_append, List.length_range', List.length_range']
    omega

/-- A cut that leaves a well-formed store with the same records keeps N too. -/
theorem State.inv.records_kept {w : State} (hs : s.inv) (hw : w.inv) (hrecords : w.records = s.records)
    (hstore : u.store = w.store) : u.inv ∧ u.pageCount = s.pageCount ∧ u.records = s.records := by
  have hu := hw.congr hstore
  have hsame := (State.records_congr hstore).trans hrecords
  exact ⟨hu, by rw [hu.pageCount_eq, hsame, hs.pageCount_eq], hsame⟩

/-- A WRITE wraps at the lap end only, and finds room only before a tail that is not at page 0. -/
theorem State.Ring.of_writeLeaf_wrap (hr : s.Ring h t) (hleaf : s.writeLeaf = .wrapRoom ∨ s.writeLeaf = .wrapFull) :
    s.flip = 0 ∧ h = cap s.pageSize.toNat ∧ (s.writeLeaf = .wrapRoom → 0 < t) := by
  rw [hr.writeLeaf_eq] at hleaf ⊢
  split_ifs at hleaf ⊢ with h0 hend ht
  · exact ⟨h0, hend, fun _ => by omega⟩
  · exact ⟨h0, hend, nofun⟩
  all_goals simp at hleaf

/-- A WRITE that stores its page without a wrap has room at head. -/
theorem State.Ring.room_of_writeLeaf (hr : s.Ring h t) (hroom : s.writeLeaf.result = true)
    (hwrap : s.writeLeaf ≠ .wrapRoom) : s.room h t := by
  rw [hr.writeLeaf_eq] at hroom hwrap
  split_ifs at hroom hwrap with h0 hend ht hlt
  · exact absurd rfl hwrap
  · cases hroom
  · exact .inl ⟨h0, lt_of_le_of_ne hr.head_le hend⟩
  · exact .inr ⟨hr.flip_eq_one h0, hlt⟩
  · cases hroom

/-- A READ wraps at the lap end only. -/
theorem State.Ring.of_readLeaf_wrap (hr : s.Ring h t) (hleaf : s.readLeaf = .wrapData ∨ s.readLeaf = .wrapEmpty) :
    s.flip = 1 ∧ t = cap s.pageSize.toNat := by
  rw [hr.readLeaf_eq] at hleaf
  split_ifs at hleaf with h0 _ hend
  · simp at hleaf
  · simp at hleaf
  · exact ⟨hr.flip_eq_one h0, hend⟩
  · exact ⟨hr.flip_eq_one h0, hend⟩
  · simp at hleaf

/-- After WRITE's wrap commit the writer is at page 0 of the next lap, and the records are the same. -/
theorem State.Ring.fetched_wrapHead (hr : s.Ring h t) (hleaf : s.writeLeaf = .wrapRoom ∨ s.writeLeaf = .wrapFull)
    (len : Half) :
    (s.fetched (.write len)).wrapHead.Ring 0 t ∧ (s.fetched (.write len)).wrapHead.records = s.records := by
  obtain ⟨hf, hend, -⟩ := hr.of_writeLeaf_wrap hleaf
  have hfetch : (s.fetched (.write len)).Ring h t := hr.congr (s.fetched_store _)
  obtain ⟨hring, hrecords⟩ := hfetch.wrapHead (by simpa using hend) (by simpa using hf)
  exact ⟨hring, hrecords.trans (State.records_congr (s.fetched_store _))⟩

/-- After READ's wrap commit the reader is at page 0 of the writer's lap, and the records are the same. -/
theorem State.Ring.fetched_wrapTail (hr : s.Ring h t) (hleaf : s.readLeaf = .wrapData ∨ s.readLeaf = .wrapEmpty) :
    (s.fetched .read).wrapTail.Ring h 0 ∧ (s.fetched .read).wrapTail.records = s.records := by
  obtain ⟨hf, hend⟩ := hr.of_readLeaf_wrap hleaf
  have hfetch : (s.fetched .read).Ring h t := hr.congr (s.fetched_store _)
  obtain ⟨hring, hrecords⟩ := hfetch.wrapTail (by simpa using hend) (by simpa using hf)
  exact ⟨hring, hrecords.trans (State.records_congr (s.fetched_store _))⟩

/-- The transfer of a WRITE starts with a free page at head and the same records. -/
theorem State.Ring.putStart (hr : s.Ring h t) (hroom : s.writeLeaf.result = true) (len : Half) :
    ∃ k, (s.putStart len).Ring k t ∧ (s.putStart len).room k t ∧ (s.putStart len).records = s.records := by
  unfold State.putStart
  by_cases hwrap : s.writeLeaf = .wrapRoom
  · obtain ⟨hring, hrecords⟩ := hr.fetched_wrapHead (.inl hwrap) len
    obtain ⟨-, -, hpos⟩ := hr.of_writeLeaf_wrap (.inl hwrap)
    rw [if_pos hwrap]
    exact ⟨0, hring, .inr ⟨State.wrapHead_flip _, hpos hwrap⟩, hrecords⟩
  · rw [if_neg hwrap]
    exact ⟨h, hr.congr (s.fetched_store _), by simpa [State.room] using hr.room_of_writeLeaf hroom hwrap,
      State.records_congr (s.fetched_store _)⟩

/-- The transfer of a READ starts with the same records. -/
theorem State.Ring.getStart (hr : s.Ring h t) : s.getStart.inv ∧ s.getStart.records = s.records := by
  unfold State.getStart
  by_cases hwrap : s.readLeaf = .wrapData
  · obtain ⟨hring, hrecords⟩ := hr.fetched_wrapTail (.inl hwrap)
    rw [if_pos hwrap]
    exact ⟨hring.inv, hrecords⟩
  · rw [if_neg hwrap]
    exact ⟨(hr.congr (s.fetched_store _)).inv, State.records_congr (s.fetched_store _)⟩

/-- Bytes written into the free page at head are invisible: ring and records are the same. -/
theorem State.Ring.write_freePage (hr : s.Ring h t) (hroom : s.room h t)
    (hread : ∀ a, ¬ (h * s.pageSize.toNat ≤ a ∧ a < h * s.pageSize.toNat + s.pageSize.toNat) →
      u.store.read a = s.store.read a) : u.Ring h t ∧ u.records = s.records := by
  have hbelow := page_below (hr.lt_of_room hroom)
  obtain ⟨hhead, htail, hpage, hflip⟩ := State.fields_eq_of_read (s := s) (u := u) fun a ha => hread a (by omega)
  have hring : u.Ring h t :=
    { pos := hpage ▸ hr.pos
      head := hhead ▸ hpage ▸ hr.head
      tail := htail ▸ hpage ▸ hr.tail
      head_le := hpage ▸ hr.head_le
      tail_le := hpage ▸ hr.tail_le
      order := hflip ▸ hr.order }
  refine ⟨hring, ?_⟩
  rw [hring.records_eq, hr.records_eq, State.pages, hflip, hpage, ← State.pages]
  refine List.map_congr_left fun k hk => ?_
  have hkh : k ≠ h := fun heq => State.not_mem_pages_of_room hroom (heq ▸ hk)
  unfold State.page bytesAt
  rw [hpage]
  exact List.map_congr_left fun i hi => hread _ (page_disjoint hkh (List.mem_range.1 hi))

end

/-! ### A cut just after a wrap commit (70_reset R244) -/

/-- Settles O50: the wrap commit moves the pointer to page 0 of the ring, with the same records, and N counts them. -/
theorem cutAfterWrapCommitKeepsRecords : Obligations.CutAfterWrapCommitKeepsRecords := by
  refine ⟨fun len s hs hleaf => ?_, fun s hs hleaf => ?_⟩
  · obtain ⟨h, t, hr⟩ := hs.ring
    obtain ⟨hring, hrecords⟩ := hr.fetched_wrapHead hleaf len
    obtain ⟨u, hu, hstore⟩ : ∃ u, State.events 10 (s.begin (encode (.write len))) = .next u
        ∧ u.store = (s.fetched (.write len)).wrapHead.store :=
      ⟨_, (State.events_write_wrap hleaf 3).trans (State.events_wrapHead _ _), by split <;> rfl⟩
    obtain ⟨hhead, htail, hpage, hflip, -⟩ := State.fields_congr hstore
    exact ⟨u, hu, by simp [hhead], by simp [htail], by simp [hpage], by simp [hflip],
      hs.records_kept hring.inv hrecords hstore⟩
  · obtain ⟨h, t, hr⟩ := hs.ring
    obtain ⟨hring, hrecords⟩ := hr.fetched_wrapTail hleaf
    obtain ⟨u, hu, hstore⟩ : ∃ u, State.events 10 (s.begin (encode .read)) = .next u
        ∧ u.store = (s.fetched .read).wrapTail.store :=
      ⟨_, (State.events_read_wrap hleaf 3).trans (State.events_wrapTail _ _), by split <;> rfl⟩
    obtain ⟨hhead, htail, hpage, hflip, -⟩ := State.fields_congr hstore
    exact ⟨u, hu, by simp [hhead], by simp [htail], by simp [hpage], by simp [hflip],
      hs.records_kept hring.inv hrecords hstore⟩

/-! ### A cut inside a data transfer (70_reset R244) -/

/-- What a cut after `m` events of a WRITE's transfer leaves. -/
structure PutCut (s u : State) (len : Half) (m : Nat) : Prop where
  H : u.H = s.writeBase
  P : u.P = s.pageSize
  hb : u.hb = s.hb
  head : u.head = s.writeBase
  tail : u.tail = s.tail
  pageSize : u.pageSize = s.pageSize
  flip : u.flip = if s.writeLeaf = .wrapRoom then 0x01 else s.flip
  data : ∀ a, a < 0x7FE0 → u.store.read a =
    if s.writeBase.toNat ≤ a ∧ a < s.writeBase.toNat + putDone (min len.toNat s.pageSize.toNat) m
      then recordByte s.hb len (a - s.writeBase.toNat) else s.store.read a
  inv : u.inv
  records : u.records = s.records
  point : m = min len.toNat s.pageSize.toNat + s.pageSize.toNat → u.point = .commitHead 0

/-- What a cut after `m` events of a READ's transfer leaves. -/
structure GetCut (s u : State) (m : Nat) : Prop where
  T : u.T = s.readBase
  P : u.P = s.pageSize
  head : u.head = s.head
  tail : u.tail = s.readBase
  pageSize : u.pageSize = s.pageSize
  flip : u.flip = if s.readLeaf = .wrapData then 0x00 else s.flip
  data : ∀ a, a < 0x7FE0 → u.store.read a = s.store.read a
  hb : ∀ j, u.hb.read j = if j < m / 2 then s.store.read (s.readBase.toNat + j) else s.hb.read j
  inv : u.inv
  records : u.records = s.records
  point : m = 2 * s.pageSize.toNat → u.point = .commitTail 0

/-- A transfer's events put no more bytes than the page has. -/
theorem putDone_le {L P m : Nat} (hm : m ≤ min L P + P) : putDone (min L P) m ≤ P := by
  unfold putDone
  split <;> omega

section
variable {s : State}

/-- A cut inside a WRITE's transfer falls over the free page at head. -/
theorem State.inv.putCut (hs : s.inv) (hroom : s.writeLeaf.result = true) (len : Half) {m : Nat}
    (hm : m ≤ min len.toNat s.pageSize.toNat + s.pageSize.toNat) :
    ∃ u, State.events ((if s.writeLeaf = .wrapRoom then 10 else 7) + m) (s.begin (encode (.write len))) = .next u
      ∧ PutCut s u len m := by
  obtain ⟨h, t, hr⟩ := hs.ring
  obtain ⟨k, hring, hfree, hrecords⟩ := hr.putStart hroom len
  have hbelow := page_below (hring.lt_of_room hfree)
  have hbase := hring.head
  rw [State.putStart_pageSize] at hbelow hbase
  rw [State.putStart_head] at hbase
  have hdone := putDone_le hm
  have hC : Config.capacity = 32768 := rfl
  obtain ⟨u, hu, hregs, hhb, hpoint, hread⟩ := State.events_putPart (s.putStart len) m
    (by simpa [Instr.arg] using hm) (by rw [State.putStart_H, State.putStart_P]; omega)
  simp only [State.putStart_H, State.putStart_P, State.putStart_ARG, State.putStart_hb, Instr.arg] at hpoint hread hhb
  obtain ⟨huring, hurecords⟩ := hring.write_freePage (u := u) hfree fun a ha => by
    rw [State.putStart_pageSize] at ha
    rw [hread, if_neg (by omega)]
  obtain ⟨hhead, htail, hpage, hflip⟩ := State.fields_eq_of_read (s := s.putStart len) (u := u) fun a ha => by
    rw [hread, if_neg (by omega)]
  refine ⟨u, (State.events_after (State.events_putStart hroom) m).trans hu,
    { H := by rw [hregs.H, State.putStart_H]
      P := by rw [hregs.P, State.putStart_P]
      hb := hhb
      head := by rw [hhead, State.putStart_head]
      tail := by rw [htail, State.putStart_tail]
      pageSize := by rw [hpage, State.putStart_pageSize]
      flip := by rw [hflip, State.putStart_flip]
      data := fun a ha => ?_
      inv := huring.inv
      records := hurecords.trans hrecords
      point := hpoint }⟩
  rw [hread, State.putStart_read, if_neg (c := _ ∧ (_ ∨ _)) (by omega), if_neg (c := _ ∧ a = 0x7FEA) (by omega)]

/-- A cut inside a READ's transfer leaves the store its transfer started over. -/
theorem State.inv.getCut (hs : s.inv) (hdata : s.readLeaf.result = true) {m : Nat} (hm : m ≤ 2 * s.pageSize.toNat) :
    ∃ u, State.events ((if s.readLeaf = .wrapData then 10 else 7) + m) (s.begin (encode .read)) = .next u
      ∧ GetCut s u m := by
  obtain ⟨h, t, hr⟩ := hs.ring
  obtain ⟨hinv, hrecords⟩ := hr.getStart
  have hbelow := hr.readBase_below hdata
  have hC : Config.capacity = 32768 := rfl
  obtain ⟨u, hu, hregs, hstore, hpoint, hread⟩ := State.events_getPart s.getStart m (by simpa using hm)
    (by rw [State.getStart_T, State.getStart_P]; omega)
  simp only [State.getStart_T, State.getStart_P, State.getStart_store, State.getStart_hb] at hpoint hread
  obtain ⟨hhead, htail, hpage, hflip, -⟩ := State.fields_congr hstore
  have hsame : ∀ a, a < 0x7FE0 → s.readStore.read a = s.store.read a := fun a ha => by
    rw [State.readStore_read, if_neg (by omega)]
  refine ⟨u, (State.events_after (State.events_getStart hdata) m).trans hu,
    { T := by rw [hregs.T, State.getStart_T]
      P := by rw [hregs.P, State.getStart_P]
      head := by rw [hhead, State.getStart_head]
      tail := by rw [htail, State.getStart_tail]
      pageSize := by rw [hpage, State.getStart_pageSize]
      flip := by rw [hflip, State.getStart_flip]
      data := fun a ha => by rw [hstore, State.getStart_store, hsame a ha]
      hb := fun j => ?_
      inv := hinv.congr hstore
      records := (State.records_congr hstore).trans hrecords
      point := hpoint }⟩
  rw [hread]
  split
  · exact hsame _ (by omega)
  · rfl

end

/-- Settles O55: what the two cuts leave; N counts the records, which are the same. -/
theorem cutInsideATransferKeepsRecords : Obligations.CutInsideATransferKeepsRecords := by
  refine ⟨fun len s m hs hroom hm => ?_, fun s m hs hdata hm => ?_⟩
  · obtain ⟨u, hu, hcut⟩ := hs.putCut hroom len hm
    exact ⟨u, hu, hcut.head, hcut.tail, hcut.pageSize, hcut.flip, hcut.hb, hcut.data,
      hs.records_kept hcut.inv hcut.records rfl⟩
  · obtain ⟨u, hu, hcut⟩ := hs.getCut hdata hm
    exact ⟨u, hu, hcut.head, hcut.tail, hcut.pageSize, hcut.flip, hcut.data, hcut.hb,
      hs.records_kept hcut.inv hcut.records rfl⟩

/-! ### A cut inside a pointer write (70_reset R244, 20_memory R57) -/

/-- The event of a store write that is due at an address below C. -/
theorem State.events_one_write {s : State} {a : Nat} {v : Byte} (hreq : s.request = some (.storeWrite a v))
    (ha : a < Config.capacity) : State.events 1 s = .next ((s.storeWrite a v).advance v) := by
  rw [State.events_one, State.event, hreq]
  exact if_pos ha

/-- WrapHead's first write: the low byte of head (40_engine R106). -/
theorem State.events_wrapHead_low (s : State) (room : Bool) :
    State.events 1 (s.setPoint (.wrapHead 0 room)) = .next ((s.storeWrite 0x7FE4 0).setPoint (.wrapHead 1 room)) :=
  State.events_one_write rfl (by decide)

/-- WrapHead's second write: the high byte of head. -/
theorem State.events_wrapHead_high (s : State) (room : Bool) :
    State.events 1 (s.setPoint (.wrapHead 1 room)) = .next ((s.storeWrite 0x7FE5 0).setPoint (.wrapHead 2 room)) :=
  State.events_one_write rfl (by decide)

/-- WrapTail's first write: the low byte of tail (40_engine R106). -/
theorem State.events_wrapTail_low (s : State) (data : Bool) :
    State.events 1 (s.setPoint (.wrapTail 0 data)) = .next ((s.storeWrite 0x7FE6 0).setPoint (.wrapTail 1 data)) :=
  State.events_one_write rfl (by decide)

/-- WrapTail's second write: the high byte of tail. -/
theorem State.events_wrapTail_high (s : State) (data : Bool) :
    State.events 1 (s.setPoint (.wrapTail 1 data)) = .next ((s.storeWrite 0x7FE7 0).setPoint (.wrapTail 2 data)) :=
  State.events_one_write rfl (by decide)

/-- CommitHead's first write: the low byte of the sum (40_engine R106). -/
theorem State.events_commitHead_low {s : State} (hp : s.point = .commitHead 0) :
    State.events 1 s
      = .next ((s.storeWrite 0x7FE4 (BitVec.ofNat 8 (s.H.toNat + s.P.toNat))).setPoint (.commitHead 1)) := by
  rw [← State.setPoint_self hp, ← paeSum_toNat, ← storedPointer_low]
  exact State.events_one_write rfl (by decide)

/-- CommitTail's first write: the low byte of the sum (40_engine R106). -/
theorem State.events_commitTail_low {s : State} (hp : s.point = .commitTail 0) :
    State.events 1 s
      = .next ((s.storeWrite 0x7FE6 (BitVec.ofNat 8 (s.T.toNat + s.P.toNat))).setPoint (.commitTail 1)) := by
  rw [← State.setPoint_self hp, ← paeSum_toNat, ← storedPointer_low]
  exact State.events_one_write rfl (by decide)

/-- A new low byte of head beside its old high byte; no other field changes. -/
theorem State.storeWrite_headLow (s : State) (v : Byte) :
    (s.storeWrite 0x7FE4 v).head.toNat = s.head.toNat / 256 * 256 + v.toNat
      ∧ (s.storeWrite 0x7FE4 v).tail = s.tail ∧ (s.storeWrite 0x7FE4 v).pageSize = s.pageSize
      ∧ (s.storeWrite 0x7FE4 v).flip = s.flip := by
  have hlow := (s.store.read 0x7FE4).isLt
  refine ⟨?_, by simp [State.tail, field16], by simp [State.pageSize, field16], by simp [State.flip, field8]⟩
  simp only [State.head, field16, fieldAddr_offHead, decodeU16_toNat, State.storeWrite_store, Memory.read_write]
  rw [if_true, if_neg (by decide)]
  omega

/-- A new low byte of tail beside its old high byte; no other field changes. -/
theorem State.storeWrite_tailLow (s : State) (v : Byte) :
    (s.storeWrite 0x7FE6 v).tail.toNat = s.tail.toNat / 256 * 256 + v.toNat
      ∧ (s.storeWrite 0x7FE6 v).head = s.head ∧ (s.storeWrite 0x7FE6 v).pageSize = s.pageSize
      ∧ (s.storeWrite 0x7FE6 v).flip = s.flip := by
  have hlow := (s.store.read 0x7FE6).isLt
  refine ⟨?_, by simp [State.head, field16], by simp [State.pageSize, field16], by simp [State.flip, field8]⟩
  simp only [State.tail, field16, fieldAddr_offTail, decodeU16_toNat, State.storeWrite_store, Memory.read_write]
  rw [if_true, if_neg (by decide)]
  omega

/-- A head of zero bytes is 0; no other field changes. -/
theorem State.storeWrite_headZero (s : State) :
    ((s.storeWrite 0x7FE4 0).storeWrite 0x7FE5 0).head = 0
      ∧ ((s.storeWrite 0x7FE4 0).storeWrite 0x7FE5 0).tail = s.tail
      ∧ ((s.storeWrite 0x7FE4 0).storeWrite 0x7FE5 0).pageSize = s.pageSize
      ∧ ((s.storeWrite 0x7FE4 0).storeWrite 0x7FE5 0).flip = s.flip := by
  simp [State.head, State.tail, State.pageSize, State.flip, field16, field8, decodeU16]

/-- A tail of zero bytes is 0; no other field changes. -/
theorem State.storeWrite_tailZero (s : State) :
    ((s.storeWrite 0x7FE6 0).storeWrite 0x7FE7 0).tail = 0
      ∧ ((s.storeWrite 0x7FE6 0).storeWrite 0x7FE7 0).head = s.head
      ∧ ((s.storeWrite 0x7FE6 0).storeWrite 0x7FE7 0).pageSize = s.pageSize
      ∧ ((s.storeWrite 0x7FE6 0).storeWrite 0x7FE7 0).flip = s.flip := by
  simp [State.head, State.tail, State.pageSize, State.flip, field16, field8, decodeU16]

section
variable {s : State}

/-- One and two events into WRITE's wrap commit: head torn, then 0 with the old flag. -/
theorem State.wrapHead_cut (hleaf : s.writeLeaf = .wrapRoom ∨ s.writeLeaf = .wrapFull) (len : Half) :
    ∃ t u : State, State.events 8 (s.begin (encode (.write len))) = .next t
      ∧ t.head.toNat = s.head.toNat / 256 * 256 ∧ t.tail = s.tail ∧ t.pageSize = s.pageSize ∧ t.flip = s.flip
      ∧ (∀ a, a ≠ 0x7FE4 → t.store.read a = s.store.read a) ∧ t.hb = s.hb
      ∧ State.events 9 (s.begin (encode (.write len))) = .next u
      ∧ u.head = 0 ∧ u.tail = s.tail ∧ u.pageSize = s.pageSize ∧ u.flip = s.flip
      ∧ (∀ a, a ≠ 0x7FE4 → a ≠ 0x7FE5 → u.store.read a = s.store.read a) ∧ u.hb = s.hb := by
  obtain ⟨hhead, htail, hpage, hflip⟩ := (s.fetched (.write len)).storeWrite_headLow 0
  obtain ⟨hhead', htail', hpage', hflip'⟩ := (s.fetched (.write len)).storeWrite_headZero
  have hlow := State.events_wrapHead_low (s.fetched (.write len)) s.writeLeaf.result
  refine ⟨_, _, (State.events_write_wrap hleaf 1).trans hlow, by simpa using hhead, by simpa using htail,
    by simpa using hpage, by simpa using hflip, fun a h4 => by simp [h4], by simp,
    (State.events_write_wrap hleaf (1 + 1)).trans ((State.events_after hlow 1).trans (State.events_wrapHead_high _ _)),
    hhead', by simpa using htail', by simpa using hpage', by simpa using hflip', fun a h4 h5 => by simp [h4, h5],
    by simp⟩

/-- One and two events into READ's wrap commit: tail torn, then 0 with the old flag. -/
theorem State.wrapTail_cut (hleaf : s.readLeaf = .wrapData ∨ s.readLeaf = .wrapEmpty) :
    ∃ t u : State, State.events 8 (s.begin (encode .read)) = .next t
      ∧ t.tail.toNat = s.tail.toNat / 256 * 256 ∧ t.head = s.head ∧ t.pageSize = s.pageSize ∧ t.flip = s.flip
      ∧ (∀ a, a ≠ 0x7FE6 → t.store.read a = s.store.read a) ∧ t.hb = s.hb
      ∧ State.events 9 (s.begin (encode .read)) = .next u
      ∧ u.tail = 0 ∧ u.head = s.head ∧ u.pageSize = s.pageSize ∧ u.flip = s.flip
      ∧ (∀ a, a ≠ 0x7FE6 → a ≠ 0x7FE7 → u.store.read a = s.store.read a) ∧ u.hb = s.hb := by
  obtain ⟨htail, hhead, hpage, hflip⟩ := (s.fetched .read).storeWrite_tailLow 0
  obtain ⟨htail', hhead', hpage', hflip'⟩ := (s.fetched .read).storeWrite_tailZero
  have hlow := State.events_wrapTail_low (s.fetched .read) s.readLeaf.result
  refine ⟨_, _, (State.events_read_wrap hleaf 1).trans hlow, by simpa using htail, by simpa using hhead,
    by simpa using hpage, by simpa using hflip, fun a h6 => by simp [h6], by simp,
    (State.events_read_wrap hleaf (1 + 1)).trans ((State.events_after hlow 1).trans (State.events_wrapTail_high _ _)),
    htail', by simpa using hhead', by simpa using hpage', by simpa using hflip', fun a h6 h7 => by simp [h6, h7],
    by simp⟩

end

/-- Settles O56: the cuts before the first write, in the wrap commits, and after the first byte of a pointer advance. -/
theorem cutTearsThePointers : Obligations.CutTearsThePointers := by
  refine ⟨fun q n s t hq ht => State.query_cut (by simpa using hq) ht,
    fun len i n s t hi hn ht => State.fetch_cut ?_ hn ht, fun len s hleaf => State.wrapHead_cut hleaf len,
    fun s hleaf => State.wrapTail_cut hleaf, fun len s hs hroom => ?_, fun s hs hdata => ?_⟩
  · simp only [List.mem_cons, List.not_mem_nil, or_false] at hi
    exact hi.symm.imp id fun hw => .inr (.inr ⟨len, hw⟩)
  · obtain ⟨u, hu, hcut⟩ := hs.putCut hroom len le_rfl
    have hlow := State.events_commitHead_low (hcut.point rfl)
    rw [hcut.H, hcut.P] at hlow
    obtain ⟨hhead, htail, hpage, hflip⟩ :=
      u.storeWrite_headLow (BitVec.ofNat 8 (s.writeBase.toNat + s.pageSize.toNat))
    rw [hcut.head, BitVec.toNat_ofNat] at hhead
    exact ⟨_, (State.events_after hu 1).trans hlow, hhead, htail.trans hcut.tail, hpage.trans hcut.pageSize,
      hflip.trans hcut.flip⟩
  · obtain ⟨u, hu, hcut⟩ := hs.getCut hdata le_rfl
    have hlow := State.events_commitTail_low (hcut.point rfl)
    rw [hcut.T, hcut.P] at hlow
    obtain ⟨htail, hhead, hpage, hflip⟩ :=
      u.storeWrite_tailLow (BitVec.ofNat 8 (s.readBase.toNat + s.pageSize.toNat))
    rw [hcut.tail, BitVec.toNat_ofNat] at htail
    exact ⟨_, (State.events_after hu 1).trans hlow, htail, hhead.trans hcut.head, hpage.trans hcut.pageSize,
      hflip.trans hcut.flip⟩

end Sys2Proof.Machine
end
